-- ==== Sys2Proof/Word.lean ====
section
/-! DEFINITION. The word types of the block: bytes, 16-bit addresses, 48-bit command words (spec/00_scope.md R12,
spec/30_encoding.md R80, R83). All values are unsigned. -/

namespace Sys2Proof

/-- One byte (R69: every access is one byte wide). -/
abbrev Byte := BitVec 8

/-- A 16-bit sub-address, buffer address or length (R22, R35). -/
abbrev Half := BitVec 16

/-- A command word of either unit, 48 bits (R80, R83). -/
abbrev Word48 := BitVec 48

end Sys2Proof
end

