-- ==== Sys2Proof/Syntax.lean ====
section
/-! DEFINITION. The instructions: one constructor per row of spec/opcode_table.json (spec/30_encoding.md R81, R84, R88,
R94), the two command ports, and the encoded form of an instruction (a word together with where it arrives, R87). -/

namespace Sys2Proof

/-- The three bus conditions (spec/30_encoding.md R88, spec/90_conflicts.md C1). -/
inductive Cond where
  | start
  | stop
  | data
  deriving DecidableEq, Repr

/-- The two command ports; the port tells the two 48-bit formats apart, no bit of the word does (R87). -/
inductive Port where
  | i2c
  | uart
  deriving DecidableEq, Repr

/-- The instructions, one constructor per row of the opcode table. -/
inductive Instr where
  /-- `I2C.INIT` (R140); its operand fields are ignored (R82). -/
  | i2cInit
  /-- `I2C.SEND_BYTE` (R163). -/
  | i2cSendByte (device daddr : Byte) (address : Half) (value : Byte)
  /-- `I2C.READ_BYTE` (R164). The `value` field is not used by a read (R82) but is latched like a write's (R143). -/
  | i2cReadByte (device daddr : Byte) (address : Half) (value : Byte)
  /-- The reserved opcode `0b11` of format I2C48 (R94). -/
  | i2cReservedOp3
  /-- `UART.INIT` (R192). -/
  | uartInit (baud : BitVec 32) (fmt : Byte)
  /-- `UART.TX_BYTE` (R194); the field A is ignored (R85). -/
  | uartTxByte (byte : Byte)
  /-- `UART.TX_BUFFER` (R195); the field B is ignored (R85). -/
  | uartTxBuffer (base len : Half)
  /-- `UART.RX_BYTE` (R197); the fields A and B are ignored (R85). -/
  | uartRxByte
  /-- `COND.START` (R103), the internal primitive. -/
  | condStart
  /-- `COND.STOP` (R105). -/
  | condStop
  /-- `COND.DATA` (R107). -/
  | condData
  /-- The reserved condition code `0b11`, STAT (R89). -/
  | condStatReserved
  deriving DecidableEq, Repr

/-- An instruction as it is presented: a 48-bit word on one of the two command ports, or a 2-bit argument of the
bus-condition primitive (R80, R83, R88). -/
inductive Encoded where
  | command (p : Port) (w : Word48)
  | cond (c : BitVec 2)
  deriving DecidableEq, Repr

end Sys2Proof
end

