-- ==== Sys2Proof/Decode.lean ====
section
/-! DEFINITION. The decoder, total on every word, and the encoder (spec/30_encoding.md R80 to R88, R94, R98). A command
word is decoded by the port it arrives on (R87). Only the `zero` field and the opcode are checked (R82, R85, D28). -/

namespace Sys2Proof

/-- Why a word does not decode. -/
inductive DecodeError where
  /-- The `zero` field, bits 47:42, is not 0 (R94). -/
  | zeroField
  deriving DecidableEq, Repr

/-- The field of width `len` whose lowest bit is bit `lo`. -/
def bits (w : Word48) (lo len : Nat) : BitVec len := w.extractLsb' lo len

/-- The word whose bits from `lo` up are `v` and whose other bits are 0. -/
def place {n : Nat} (v : BitVec n) (lo : Nat) : Word48 := v.setWidth 48 <<< lo

/-- Bits 47:42, which must be 0 (R80, R83). -/
def zeroField (w : Word48) : BitVec 6 := bits w 42 6

/-- Bits 41:40, the opcode (R81, R84). -/
def opField (w : Word48) : BitVec 2 := bits w 40 2

/-- The format I2C48 with its `zero` field 0 (R80, R81): device 39:32, daddr 31:24, address 23:8, value 7:0. -/
def decodeI2c (w : Word48) : Instr :=
  if opField w = 0#2 then .i2cInit
  else if opField w = 1#2 then .i2cSendByte (bits w 32 8) (bits w 24 8) (bits w 8 16) (bits w 0 8)
  else if opField w = 2#2 then .i2cReadByte (bits w 32 8) (bits w 24 8) (bits w 8 16) (bits w 0 8)
  else .i2cReservedOp3

/-- The format UART48 with its `zero` field 0 (R83 to R85): A 39:8, B 7:0; of A, base 39:24 and len 23:8. -/
def decodeUart (w : Word48) : Instr :=
  if opField w = 0#2 then .uartInit (bits w 8 32) (bits w 0 8)
  else if opField w = 1#2 then .uartTxByte (bits w 0 8)
  else if opField w = 2#2 then .uartTxBuffer (bits w 24 16) (bits w 8 16)
  else .uartRxByte

/-- The format COND2 (R88, R89). -/
def decodeCond (c : BitVec 2) : Instr :=
  if c = 0#2 then .condStart else if c = 1#2 then .condStop else if c = 2#2 then .condData else .condStatReserved

/-- A command word on a port (R87); a word with `zero ≠ 0` is reserved (R94). -/
def decodeWord (p : Port) (w : Word48) : Except DecodeError Instr :=
  if zeroField w ≠ 0#6 then .error .zeroField
  else match p with
    | .i2c => .ok (decodeI2c w)
    | .uart => .ok (decodeUart w)

/-- The decoder. -/
def decode : Encoded → Except DecodeError Instr
  | .command p w => decodeWord p w
  | .cond c => .ok (decodeCond c)

/-- A word of format I2C48 from its fields (R80). -/
def i2cWord (op : BitVec 2) (device daddr : Byte) (address : Half) (value : Byte) : Word48 :=
  place op 40 ||| place device 32 ||| place daddr 24 ||| place address 8 ||| place value 0

/-- A word of format UART48 from its fields (R83). -/
def uartWord (op : BitVec 2) (a : BitVec 32) (b : Byte) : Word48 :=
  place op 40 ||| place a 8 ||| place b 0

/-- The 2-bit code of a bus condition (R88). -/
def condCode : Cond → BitVec 2
  | .start => 0#2
  | .stop => 1#2
  | .data => 2#2

/-- The encoder: ignored fields are 0 (R82, R85). -/
def encode : Instr → Encoded
  | .i2cInit => .command .i2c (i2cWord 0#2 0#8 0#8 0#16 0#8)
  | .i2cSendByte device daddr address value => .command .i2c (i2cWord 1#2 device daddr address value)
  | .i2cReadByte device daddr address value => .command .i2c (i2cWord 2#2 device daddr address value)
  | .i2cReservedOp3 => .command .i2c (i2cWord 3#2 0#8 0#8 0#16 0#8)
  | .uartInit baud fmt => .command .uart (uartWord 0#2 baud fmt)
  | .uartTxByte byte => .command .uart (uartWord 1#2 0#32 byte)
  | .uartTxBuffer base len => .command .uart (uartWord 2#2 (base.setWidth 32 <<< 16 ||| len.setWidth 32) 0#8)
  | .uartRxByte => .command .uart (uartWord 3#2 0#32 0#8)
  | .condStart => .cond (condCode .start)
  | .condStop => .cond (condCode .stop)
  | .condData => .cond (condCode .data)
  | .condStatReserved => .cond 3#2

/-- The bits of a command word that its instruction uses: the top byte and the operand fields that are not ignored
(R81, R82, R84, R85). The value field of a read is not used, but it is latched (R143), so it counts here. -/
def usedMask : Instr → Word48
  | .i2cInit | .i2cReservedOp3 | .uartRxByte => 0xFF0000000000#48
  | .i2cSendByte _ _ _ _ | .i2cReadByte _ _ _ _ | .uartInit _ _ => 0xFFFFFFFFFFFF#48
  | .uartTxByte _ => 0xFF00000000FF#48
  | .uartTxBuffer _ _ => 0xFFFFFFFFFF00#48
  | .condStart | .condStop | .condData | .condStatReserved => 0#48

/-- The decoded instruction as an option. -/
def decoded? (e : Encoded) : Option Instr :=
  match decode e with
  | .ok i => some i
  | .error _ => none

/-- A word of the opcode table, its width in whole bytes given. Up to 8 bits it is a COND2 argument, whose upper bits
are 0. Up to 48 bits it is a command word; the table does not say on which port it arrives, and this function reads it
as on the I2C command port (log 12). -/
def decodeTableWord (nbits w : Nat) : Option Instr :=
  if nbits ≤ 8 then (if w < 4 then decoded? (.cond (BitVec.ofNat 2 w)) else none)
  else if nbits ≤ 48 then (if w < 2 ^ 48 then decoded? (.command .i2c (BitVec.ofNat 48 w)) else none)
  else none

end Sys2Proof
end

