-- ==== Sys2Proof/Config.lean ====
section
/-! DEFINITION. What an instance of the block fixes (spec/00_scope.md R10, R50; spec/92_eei_decisions.md, open
parameters) and the source of free values. -/

namespace Sys2Proof

/-- What an implementation that exposes the primitive does with the condition code `0b11` (R89;
spec/93_implementation_defined.md U1). -/
inductive StatPolicy where
  | refuse
  | asData
  deriving DecidableEq, Repr

/-- The eleven named status codes (spec/30_encoding.md R92). -/
structure StatusCodes where
  start      : Byte
  repStart   : Byte
  mtSlaAck   : Byte
  mtSlaNack  : Byte
  mtDataAck  : Byte
  mtDataNack : Byte
  arbLost    : Byte
  mrSlaAck   : Byte
  mrSlaNack  : Byte
  mrDataAck  : Byte
  mrDataNack : Byte
  deriving DecidableEq, Repr

/-- The open parameters of an instance (R10). Log 2. -/
structure Config where
  /-- `F_CPU`, the system clock frequency in Hz (D15). -/
  fCpu : Nat
  /-- The `TW_*` status codes (D7). -/
  codes : StatusCodes
  /-- `FMT_8N1`, the raw value of the default frame format (D17). -/
  fmt8n1 : Byte
  /-- `STOP_ON_EXHAUSTION` (D10, R168). -/
  stopOnExhaustion : Bool
  /-- `STAT_POLICY` (D5, U1). -/
  statPolicy : StatPolicy
  deriving DecidableEq, Repr

namespace Config

/-- `RETRIES`, the bound of the retry counter (R10): at most six attempts. -/
def retries : BitVec 3 := 5#3

/-- `F_SCL`, the fixed target bus frequency in Hz (R10). -/
def fScl : Nat := 250000

/-- `STATUS_MASK`, the top five of eight status bits (R10, R93). -/
def statusMask : Byte := 0xF8#8

/-- `WRITE_BIT` (R91). -/
def writeBit : Byte := 0#8

/-- `READ_BIT` (R91). -/
def readBit : Byte := 1#8

/-- The number of bytes of the caller buffer space, `2^BUF_AW` (R62). -/
def bufferSize : Nat := 65536

/-- The default status codes (R92). PRESUMED: the spec marks all eleven as general knowledge (G1); log 2. -/
def defaultCodes : StatusCodes :=
  { start := 0x08, repStart := 0x10, mtSlaAck := 0x18, mtSlaNack := 0x20, mtDataAck := 0x28, mtDataNack := 0x30,
    arbLost := 0x38, mrSlaAck := 0x40, mrSlaNack := 0x48, mrDataAck := 0x50, mrDataNack := 0x58 }

/-- The spec's defaults for its vectors (spec/92_eei_decisions.md, open parameters, gathered); log 2. -/
def default : Config :=
  { fCpu := 16000000, codes := defaultCodes, fmt8n1 := 0x06, stopOnExhaustion := false, statPolicy := .refuse }

/-- Free values: nothing constrains them. Applied to the counter `free` of the state (logs 6 and 7). -/
opaque freeBits : Nat → BitVec 32

end Config

end Sys2Proof
end

