-- ==== Sys2Proof/Machine/State.lean ====
section
/-! DEFINITION. The state of the block (spec/10_state.md): the two units' registers, the two engine ports, the hidden
wire state, the caller buffer, the parameters of the instance, the port traces, and the environment (host, engines,
reset input) as plain data. INVENTORY.md '## State' lists every field with its rule and reset value. -/

namespace Sys2Proof.Machine

/-- The phases of the I2C unit (R26). Log 16: a phase outside these ten does not exist. -/
inductive Phase where
  | idle | start | slaw | addrHi | addrLo | wdata | rstart | slar | rdata | stop
  deriving DecidableEq, Repr

/-- The 4-bit encoding of the phase register (R26). -/
def Phase.code : Phase → BitVec 4
  | .idle => 0#4 | .start => 1#4 | .slaw => 2#4 | .addrHi => 3#4 | .addrLo => 4#4
  | .wdata => 5#4 | .rstart => 6#4 | .slar => 7#4 | .rdata => 8#4 | .stop => 9#4

/-- The phases of the UART unit (R37). -/
inductive UPhase where
  | idle | txw | rxw
  deriving DecidableEq, Repr

/-- The 2-bit encoding of the UART phase register (R37). -/
def UPhase.code : UPhase → BitVec 2
  | .idle => 0 | .txw => 1 | .rxw => 2

/-- The diagnostic cause register `i2c.cause` (R24, R220). -/
inductive Cause where
  | ok | arbLost | addrNack | protocol
  deriving DecidableEq, Repr

/-- The 3-bit code of a cause (R24). -/
def Cause.code : Cause → BitVec 3
  | .ok => 0 | .arbLost => 1 | .addrNack => 2 | .protocol => 3

/-- An event of the I2C port trace (R15). -/
inductive I2cEvent where
  | wrBrr (v : Byte)
  | wrDr (v : Byte)
  | req (c : Cond)
  | done (status dr : Byte)
  deriving DecidableEq, Repr

/-- An event of the UART port trace (R15). -/
inductive UartEvent where
  | wrBrrh (v : Byte)
  | wrBrrl (v : Byte)
  | wrEn (v : BitVec 2)
  | wrFmt (v : Byte)
  | wrTdr (v : Byte)
  | rdRdr (v : Byte)
  deriving DecidableEq, Repr

/-- The registers of the I2C master unit (R22 to R29). -/
structure I2cUnit where
  op     : BitVec 2
  addr   : Half
  dev    : Byte
  daddr  : Byte
  val    : Byte
  ok     : Bool
  rdata  : Byte
  done   : Bool
  exh    : Bool
  cause  : Cause
  n      : BitVec 3
  ph     : Phase
  w      : Bool
  st     : Byte
  inited : Bool
  deriving DecidableEq, Repr

/-- The two-wire engine port (R30). -/
structure TwPort where
  brr    : Byte
  cond   : BitVec 2
  dr     : Byte
  cf     : Bool
  status : Byte
  deriving DecidableEq, Repr

/-- The registers of the UART control unit (R35 to R38). -/
structure UartUnit where
  op     : BitVec 2
  baud   : BitVec 32
  fmt    : Byte
  byte   : Byte
  bufp   : Half
  len    : Half
  idx    : Half
  rx     : Byte
  done   : Bool
  ph     : UPhase
  inited : Bool
  deriving DecidableEq, Repr

/-- The UART engine port (R40). -/
structure UaPort where
  brrh : Byte
  brrl : Byte
  en   : BitVec 2
  fmt  : Byte
  tdr  : Byte
  rdr  : Byte
  dre  : Bool
  rxc  : Bool
  deriving DecidableEq, Repr

/-- A stop the unit requested and the engine has not finished (R46): none, ending after that many further steps, or
never ending (R32(d)). Log 15. -/
inductive StopFlight where
  | none
  | ending (left : Nat)
  | endless
  deriving DecidableEq, Repr

/-- The wire state: the ghost bit `wire.open`, 1 from the moment the engine has put a start on the wires until it has put
a stop (R45), and the stop in flight (R46). No rule of a unit reads it. -/
structure Wire where
  isOpen : Bool
  stop   : StopFlight
  deriving DecidableEq, Repr

/-- One answer of the two-wire engine to a START or DATA request (R33). After `delay` further steps it ends the operation
(`none`: never, R32(d)) with the raw status and a data byte (`none`: `tw.dr` is left as it is). To a START, after
`startAfter` further steps the engine has put the start condition on the wires (R45), which it may do long before the
operation ends or in one that never ends; `none` says nothing of the moment, and the start is on the wires when the
operation ends if the status says so. A DATA answer puts no start, whatever `startAfter` is. Log 1. -/
structure Answer where
  delay      : Option Nat
  startAfter : Option Nat
  status     : Byte
  dr         : Option Byte
  deriving DecidableEq, Repr

/-- The engine operation in progress: the condition requested and the engine's answer to it (R32(a)). -/
structure Operation where
  cond   : Cond
  answer : Answer
  deriving DecidableEq, Repr

/-- What the UART engine's flags and receive register read at one poll (R43). Log 8. -/
structure UaSample where
  dre : Bool
  rxc : Bool
  rdr : Byte
  deriving DecidableEq, Repr

/-- What the host does next (R48, R236): present a command word on a port, or place a byte of the caller buffer (R62).
Log 9. -/
inductive HostAction where
  | present (p : Port) (w : Word48)
  | fill (a : Half) (b : Byte)
  deriving DecidableEq, Repr

/-- The environment as plain data: the engines' answers to come, the operation in progress, what the wires show after an
exhaustion to come (log 25), the host's actions to come, the calls of an exposed primitive (log 10), and the steps until
the input `rst` is asserted (log 11). -/
structure Env where
  twScript   : List Answer
  twCur      : Option Operation
  stopScript : List Nat
  openScript : List Bool
  uaScript   : List UaSample
  host       : List HostAction
  primCalls  : List (BitVec 2)
  rst        : List Nat
  deriving DecidableEq, Repr

end Sys2Proof.Machine

namespace Sys2Proof.Machine

/-- The state of the machine. -/
structure State where
  cfg       : Config
  i2c       : I2cUnit
  tw        : TwPort
  uart      : UartUnit
  ua        : UaPort
  wire      : Wire
  env       : Env
  mem       : List Host.Cell
  i2cTrace  : List I2cEvent
  uartTrace : List UartEvent
  free      : Nat
  deriving DecidableEq, Repr

/-- Why the machine stops with a fault. Both are reached from no state that meets the invariant `Inv` of
Sys2Proof/Safety.lean. -/
inductive Fault where
  /-- Raised by the I2C completion step when the decoder says CONTINUE and R147 gives the phase and the opcode register
  no next phase. Safe: no rule describes such a state. Log 16. -/
  | noNextPhase
  /-- Raised by the TXW step when the buffer address lies past the 2^16 bytes of the buffer space (R62). Safe: R70
  refuses such a command at acceptance. Log 16. -/
  | bufferAddress
  deriving DecidableEq, Repr

/-- Why the machine gives a situation no meaning. Each but `notModelled` is a refusal of the spec itself: the situation
has no move in its model. Log 20. -/
inductive Refusal where
  /-- Raised by no instruction of this model; the form the host reads for an instruction without a meaning. Safe. -/
  | notModelled (mnemonic : String)
  /-- Raised by an accept step whose unit is not idle (R235, U2). Safe. -/
  | unitBusy
  /-- Raised by a transaction before `I2C.INIT` (R265) or a transfer before `UART.INIT` (R266, U7). Safe. -/
  | notInitialised
  /-- Raised by the step for a command word with a non-zero `zero` field (R94, U3). Safe. -/
  | reservedWord
  /-- Raised by `I2C.RESERVED_OP3` (R94, U3). Safe. -/
  | reservedOpcode
  /-- Raised by `COND.STAT_RESERVED` under `STAT_POLICY = refuse` (R89, U1). Safe. -/
  | statReserved
  /-- Raised by `UART.INIT` with an illegal baud rate (R193, U8). Safe. -/
  | baudOutOfRange
  /-- Raised by `UART.TX_BUFFER` past the top of the buffer space (R70, U9). Safe. -/
  | bufferOutOfRange
  /-- Raised by every step of an instance with an illegal configuration, and by `I2C.INIT` when the bit-rate value does
  not fit (R11, R92, R141, U6). Safe. -/
  | configurationRefused
  deriving DecidableEq, Repr

/-- The I2C unit after reset (R51); the registers R51 leaves unspecified are 0 (log 3). -/
def I2cUnit.reset : I2cUnit :=
  { op := 0#2, addr := 0#16, dev := 0#8, daddr := 0#8, val := 0#8, ok := false, rdata := 0#8, done := false, exh := false,
    cause := .ok, n := 0#3, ph := .idle, w := false, st := 0#8, inited := false }

/-- The UART unit after reset (R51); the registers R51 leaves unspecified are 0 (log 3). -/
def UartUnit.reset : UartUnit :=
  { op := 0#2, baud := 0#32, fmt := 0#8, byte := 0#8, bufp := 0#16, len := 0#16, idx := 0#16, rx := 0#8, done := false, ph := .idle,
    inited := false }

/-- The reset state (R51, R262) of the instance with the given parameters. The engine ports are 0 (log 4), the bus is
closed with no stop in flight and the traces are empty (R262), nothing is placed in the buffer (log 5) and the
environment does nothing (logs 1, 9). -/
def State.resetOf (c : Config) : State :=
  { cfg := c
    i2c := I2cUnit.reset
    tw := { brr := 0#8, cond := 0#2, dr := 0#8, cf := false, status := 0#8 }
    uart := UartUnit.reset
    ua := { brrh := 0#8, brrl := 0#8, en := 0#2, fmt := 0#8, tdr := 0#8, rdr := 0#8, dre := false, rxc := false }
    wire := { isOpen := false, stop := .none }
    env :=
      { twScript := [], twCur := none, stopScript := [], openScript := [], uaScript := [], host := [], primCalls := []
        rst := [] }
    mem := []
    i2cTrace := []
    uartTrace := []
    free := 0 }

/-- The machine right after reset, with the spec's default parameters (log 2). -/
def State.reset : State := State.resetOf Config.default

end Sys2Proof.Machine
end

