-- ==== Sys2Proof/Machine/Flags.lean ====
section
/-! DEFINITION. The status computation: the mask (spec/30_encoding.md R93) and the status decoder
(spec/41_i2c_status_decoder.md R120 to R132), the block's only flag logic; it has no arithmetic condition codes (R44). -/

namespace Sys2Proof.Machine

/-- The raw status with bits 2:0 forced to 0 (R93, R104, R120). -/
def maskStatus (raw : Byte) : Byte := raw &&& Config.statusMask

/-- A failure event the decoder can raise (R220): the two retryable ones and the protocol violation. -/
inductive Event where
  | arbLost
  | addrNack
  | protocol
  deriving DecidableEq, Repr

/-- The decoder's outcomes (R122); `raise .arbLost` and `raise .addrNack` are RETRY, `raise .protocol` is ABORT. -/
inductive DecodeOutcome where
  | continue_
  | success
  | raise (e : Event)
  deriving DecidableEq, Repr

/-- Phases START and RSTART (R124). -/
def decodeStart (k : StatusCodes) (st : Byte) : DecodeOutcome :=
  if st = k.arbLost then .raise .arbLost
  else if st = k.start ∨ st = k.repStart then .continue_
  else .raise .protocol

/-- Phase SLAW (R125). -/
def decodeSlaw (k : StatusCodes) (st : Byte) : DecodeOutcome :=
  if st = k.mtSlaNack then .raise .addrNack
  else if st = k.arbLost then .raise .arbLost
  else if st = k.mtSlaAck then .continue_
  else .raise .protocol

/-- Phase SLAR (R126). -/
def decodeSlar (k : StatusCodes) (st : Byte) : DecodeOutcome :=
  if st = k.mrSlaAck then .continue_
  else if st = k.mrSlaNack then .raise .addrNack
  else if st = k.arbLost then .raise .arbLost
  else .raise .protocol

/-- The status decoder (R120, R123 to R129). It is never applied in IDLE or STOP (R120); there it answers ABORT. -/
def decodeStatus (k : StatusCodes) (p : Phase) (st : Byte) : DecodeOutcome :=
  match p with
  | .start | .rstart => decodeStart k st
  | .slaw => decodeSlaw k st
  | .addrHi | .addrLo => if st = k.mtDataAck then .continue_ else .raise .protocol
  | .wdata => if st = k.mtDataAck then .success else .raise .protocol
  | .slar => decodeSlar k st
  | .rdata => if st = k.mrDataNack then .success else .raise .protocol
  | .idle | .stop => .raise .protocol

/-- The cause an event records (R220). -/
def causeOf : Event → Cause
  | .arbLost => .arbLost
  | .addrNack => .addrNack
  | .protocol => .protocol

end Sys2Proof.Machine
end

