-- ==== Sys2Proof/Machine/Operands.lean ====
section
/-! DEFINITION. Operand computations: the device address byte (spec/30_encoding.md R90, R91; spec/42_i2c_transactions.md
R144), the split of the sub-address (spec/20_memory.md R66), the two divisors (R140, R141, R192, R193) and which
configurations are legal (spec/00_scope.md R11, R92, D17). -/

namespace Sys2Proof.Machine

/-- `slaw`: the device address byte with the write direction bit (R144). -/
def slaw (dev daddr : Byte) : Byte :=
  (dev &&& 0xF0#8) ||| ((daddr &&& 0x07#8) <<< 1) ||| Config.writeBit

/-- `slar`: the device address byte with the read direction bit (R144). -/
def slar (dev daddr : Byte) : Byte :=
  (dev &&& 0xF0#8) ||| ((daddr &&& 0x07#8) <<< 1) ||| Config.readBit

/-- The high byte of the sub-address, sent first (R66). -/
def addrHigh (addr : Half) : Byte := addr.extractLsb' 8 8

/-- The low byte of the sub-address, sent second (R66). -/
def addrLow (addr : Half) : Byte := addr.extractLsb' 0 8

/-- The quotient of the bit-rate formula, truncating division first (R141). -/
def bitRateQuotient (c : Config) : Nat := c.fCpu / (2 * Config.fScl)

/-- The bit-rate value lies in 0..255 (R11, R141). -/
def clockLegal (c : Config) : Bool :=
  decide (8 ≤ bitRateQuotient c) && decide (bitRateQuotient c - 8 ≤ 255)

/-- The value `I2C.INIT` writes to `tw.brr` (R140), for a legal clock. -/
def bitRate (c : Config) : Byte := BitVec.ofNat 8 (bitRateQuotient c - 8)

/-- The quotient of the baud formula; `16 * baud` is a natural number, the division truncates (R193). -/
def baudQuotient (c : Config) (baud : BitVec 32) : Nat := c.fCpu / (16 * baud.toNat)

/-- The operand condition of `UART.INIT` (R193). -/
def baudLegal (c : Config) (baud : BitVec 32) : Bool :=
  decide (baud ≠ 0#32) && decide (1 ≤ baudQuotient c baud) && decide (baudQuotient c baud ≤ 65536)

/-- The 16-bit divisor `d` of `UART.INIT` (R192), for a legal baud. -/
def baudDivisor (c : Config) (baud : BitVec 32) : Half := BitVec.ofNat 16 (baudQuotient c baud - 1)

/-- The frame format written: 0 is the sentinel for the default 8N1 (R192). -/
def frameFormat (c : Config) (fmt : Byte) : Byte := if fmt = 0#8 then c.fmt8n1 else fmt

/-- The buffer does not run past the top of the buffer space (R70). -/
def bufferFits (base len : Half) : Bool := decide (base.toNat + len.toNat ≤ Config.bufferSize)

/-- Bits 2:0 of a status code are 0: it survives the mask (R92). -/
def codeMasked (b : Byte) : Bool := decide (b &&& Config.statusMask = b)

/-- Three codes are pairwise distinct. -/
def distinct3 (a b c : Byte) : Bool := decide (a ≠ b) && decide (a ≠ c) && decide (b ≠ c)

/-- The constraints on the status codes: low three bits 0, the values used within one phase pairwise distinct (R92). -/
def codesLegal (k : StatusCodes) : Bool :=
  codeMasked k.start && codeMasked k.repStart && codeMasked k.mtSlaAck && codeMasked k.mtSlaNack &&
  codeMasked k.mtDataAck && codeMasked k.mtDataNack && codeMasked k.arbLost && codeMasked k.mrSlaAck &&
  codeMasked k.mrSlaNack && codeMasked k.mrDataAck && codeMasked k.mrDataNack &&
  distinct3 k.start k.repStart k.arbLost && distinct3 k.mtSlaNack k.arbLost k.mtSlaAck &&
  distinct3 k.mrSlaAck k.mrSlaNack k.arbLost

/-- The configurations the block is instantiated with (R11, R92, D15, D17); any other is refused. -/
def configLegal (c : Config) : Bool := clockLegal c && codesLegal c.codes && decide (c.fmt8n1 ≠ 0#8)

end Sys2Proof.Machine
end

