-- ==== Sys2Proof/Machine/Ops.lean ====
section
/-! DEFINITION. The named operations: the caller buffer, writes and reads of the engine ports with their trace events
(spec/00_scope.md R13, R15), the request and completion of a bus condition (spec/40_i2c_conditions.md), taking a failure
event (spec/60_exceptions.md R232), the reset event (spec/70_reset_and_hazards.md R260, R261) and the moves of the two
engines (spec/10_state.md R32, R33, R42, R43). -/

namespace Sys2Proof.Machine

/-! ### The caller buffer space (R62) -/

/-- The byte an address holds; an address not listed reads 0 (log 5). -/
def memGet : List Host.Cell → Nat → Byte
  | [], _ => 0#8
  | (k, v) :: m, a => if k = a then v else memGet m a

/-- The buffer with the byte at one address replaced. It keeps the canonical form `memWf`. -/
def memSet : List Host.Cell → Nat → Byte → List Host.Cell
  | [], a, b => if b = 0#8 then [] else [(a, b)]
  | (k, v) :: m, a, b =>
    if a < k then (if b = 0#8 then (k, v) :: m else (a, b) :: (k, v) :: m)
    else if a = k then (if b = 0#8 then m else (a, b) :: m)
    else (k, v) :: memSet m a b

/-- Every listed address is at least `lo`, addresses rise strictly and stay inside the buffer space, no listed byte is 0. -/
def memWfFrom (lo : Nat) : List Host.Cell → Bool
  | [] => true
  | (k, v) :: m => decide (lo ≤ k) && decide (k < Config.bufferSize) && decide (v ≠ 0#8) && memWfFrom (k + 1) m

/-- The canonical form of the buffer. -/
def memWf (m : List Host.Cell) : Bool := memWfFrom 0 m

/-- `MemRead(a, 1)` (R13, R62): `none` past the top of the buffer space. -/
def State.memRead (s : State) (a : Nat) : Option Byte :=
  if a < Config.bufferSize then some (memGet s.mem a) else none

/-- The host places one byte of the caller buffer (R62). -/
def State.fillBuffer (s : State) (a : Half) (b : Byte) : State :=
  { s with mem := memSet s.mem a.toNat b }

/-! ### Free values -/

/-- The `k`-th free value from the counter on, `n` bits of it (logs 6 and 7). -/
def State.freeAt (s : State) (k n : Nat) : BitVec n := (Config.freeBits (s.free + k)).setWidth n

/-! ### Engine-port writes and reads (R13) -/

/-- `EngWrite(tw.brr, v)`. -/
def State.engWriteBrr (s : State) (v : Byte) : State :=
  { s with tw := { s.tw with brr := v }, i2cTrace := s.i2cTrace ++ [.wrBrr v] }

/-- `EngWrite(tw.dr, v)`. -/
def State.engWriteDr (s : State) (v : Byte) : State :=
  { s with tw := { s.tw with dr := v }, i2cTrace := s.i2cTrace ++ [.wrDr v] }

/-- `EngWrite(ua.brrh, v)`. -/
def State.engWriteBrrh (s : State) (v : Byte) : State :=
  { s with ua := { s.ua with brrh := v }, uartTrace := s.uartTrace ++ [.wrBrrh v] }

/-- `EngWrite(ua.brrl, v)`. -/
def State.engWriteBrrl (s : State) (v : Byte) : State :=
  { s with ua := { s.ua with brrl := v }, uartTrace := s.uartTrace ++ [.wrBrrl v] }

/-- `EngWrite(ua.en, v)`. -/
def State.engWriteEn (s : State) (v : BitVec 2) : State :=
  { s with ua := { s.ua with en := v }, uartTrace := s.uartTrace ++ [.wrEn v] }

/-- `EngWrite(ua.fmt, v)`. -/
def State.engWriteFmt (s : State) (v : Byte) : State :=
  { s with ua := { s.ua with fmt := v }, uartTrace := s.uartTrace ++ [.wrFmt v] }

/-- `EngWrite(ua.tdr, v)`. DESIGN CHOICE: after it `ua.dre` reads 0 until the engine's next sample (R42(b); log 8). -/
def State.engWriteTdr (s : State) (v : Byte) : State :=
  { s with ua := { s.ua with tdr := v, dre := false }, uartTrace := s.uartTrace ++ [.wrTdr v] }

/-- The side of `EngRead(ua.rdr)`: the trace event, and the byte is consumed (R42(c), R198; log 8). -/
def State.engReadRdr (s : State) : State :=
  { s with ua := { s.ua with rxc := false }, uartTrace := s.uartTrace ++ [.rdRdr s.ua.rdr] }

/-! ### The bus-condition primitive (R100 to R109) -/

/-- The operation a request starts: its answer is the next of the bus script; with a used-up script it never ends and puts
nothing on the wires (R32(a), R32(d), R33; log 1). -/
def operationOf (c : Cond) (script : List Answer) : Option Operation := script.head?.map fun a => { cond := c, answer := a }

/-- `Req(START)` and `Req(DATA)`: the engine operation starts, its answer is the next of the bus script, and `tw.cf`
reads 0 until it ends (R32(a), R33, R101). `tw.status` is a free value until then (log 7).
DESIGN CHOICE: a request made while the engine still performs an earlier operation, which only a reset in mid-command makes
possible, replaces it: the abandoned operation ends no more, and its status, data byte and start are dropped (R32 and R261
are silent; log 23). -/
def State.reqWaited (s : State) (c : Cond) : State :=
  { s with
    tw := { s.tw with cond := condCode c, cf := false, status := s.freeAt 0 8 }
    env := { s.env with twCur := operationOf c s.env.twScript, twScript := s.env.twScript.tail }
    i2cTrace := s.i2cTrace ++ [.req c]
    free := s.free + 1 }

/-- The stop operation the engine starts: it ends after the next delay of the stop script, or never (R32(d), R46; log 15). -/
def stopFlightOf : List Nat → StopFlight
  | [] => .endless
  | d :: _ => .ending d

/-- `Req(STOP)` (R101, R105): the contract says nothing about `tw.cf` and `tw.status` afterwards (R32(c)): free values
(log 7).
DESIGN CHOICE: a stop requested while an earlier stop is still in flight replaces it: the earlier one ends no more, and only
the new one closes the wire (R32, R46, R105, R159 and R271 are silent on two stops; log 26). -/
def State.reqStop (s : State) : State :=
  { s with
    tw := { s.tw with cond := condCode .stop, cf := (s.freeAt 1 1).getLsbD 0, status := s.freeAt 0 8 }
    wire := { s.wire with stop := stopFlightOf s.env.stopScript }
    env := { s.env with stopScript := s.env.stopScript.tail }
    i2cTrace := s.i2cTrace ++ [.req .stop]
    free := s.free + 2 }

/-- The issue step of a waited condition (R102, R103, R107). -/
def State.issue (s : State) (c : Cond) : State :=
  { s.reqWaited c with i2c := { s.i2c with w := true } }

/-- The completion step of a waited condition, `tw.cf` reading 1: read and mask the status, clear the wait bit (R104). -/
def State.complete (s : State) : State :=
  { s with
    i2c := { s.i2c with st := maskStatus s.tw.status, w := false }
    i2cTrace := s.i2cTrace ++ [.done s.tw.status s.tw.dr] }

/-- `Issue(c)` for START and DATA: the issue step, then the completion step, enabled when `tw.cf` reads 1; while it reads
0 the unit polls and nothing changes (R102, R109). -/
def State.waitedCond (s : State) (c : Cond) : State :=
  if s.i2c.w then (if s.tw.cf then s.complete else s) else s.issue c

/-- `Issue(STOP)`: one step, the sentinel 0 is returned, nothing is waited for (R105, R106). -/
def State.stopCond (s : State) : State :=
  { s.reqStop with i2c := { s.i2c with st := 0#8 } }

/-! ### Taking a failure event (R220 to R234) -/

/-- A retryable event below the bound: the next attempt starts (R160). -/
def State.retry (s : State) (c : Cause) : State :=
  { s with i2c := { s.i2c with cause := c, n := s.i2c.n + 1#3, ph := .start } }

/-- What `wire.open` is after an exhaustion without STOP. DESIGN CHOICE: any value (U11), taken from a script; with none
left, that of a conforming engine: 0 after a lost arbitration, unchanged after an address NACK (U11, R272; log 25). -/
def State.openAfterExhaustion (s : State) (c : Cause) : Bool :=
  s.env.openScript.head?.getD (if c = .arbLost then false else s.wire.isOpen)

/-- Exhaustion: completion without STOP, or phase STOP under `STOP_ON_EXHAUSTION` (R161, R168). -/
def State.exhaust (s : State) (c : Cause) : State :=
  if s.cfg.stopOnExhaustion then { s with i2c := { s.i2c with cause := c, exh := true, ph := .stop } }
  else
    { s with
      i2c := { s.i2c with cause := c, exh := true, done := true, ph := .idle }
      wire := { s.wire with isOpen := s.openAfterExhaustion c }
      env := { s.env with openScript := s.env.openScript.tail } }

/-- ABORT: the attempt loop ends, STOP follows (R162). -/
def State.abort (s : State) : State :=
  { s with i2c := { s.i2c with cause := .protocol, ph := .stop } }

/-- Taking a failure event, the block's only exceptions: table R232. They save nothing and return nowhere (R226, R234). -/
def State.takeEvent (s : State) (e : Event) : State :=
  match e with
  | .protocol => s.abort
  | _ => if s.i2c.n < Config.retries then s.retry (causeOf e) else s.exhaust (causeOf e)

/-! ### The reset event (R260, R261) -/

/-- The I2C unit after `rst`: the registers R260 names, every other one unspecified, that is a free value (log 6); of
`i2c.st` bits 2:0 are always 0 (R28). -/
def State.i2cAfterRst (s : State) : I2cUnit :=
  { I2cUnit.reset with
    op := s.freeAt 0 2, addr := s.freeAt 1 16, dev := s.freeAt 2 8, daddr := s.freeAt 3 8, val := s.freeAt 4 8
    rdata := s.freeAt 5 8, st := maskStatus (s.freeAt 6 8) }

/-- The UART unit after `rst` (R260); unspecified registers are free values (log 6). -/
def State.uartAfterRst (s : State) : UartUnit :=
  { UartUnit.reset with
    op := s.freeAt 7 2, baud := s.freeAt 8 32, fmt := s.freeAt 9 8, byte := s.freeAt 10 8, bufp := s.freeAt 11 16
    len := s.freeAt 12 16, idx := s.freeAt 13 16, rx := s.freeAt 14 8 }

/-- The reset event: both units return to their initial state whatever they were doing; no port event, the block resets
neither the engines nor the wires (R260, R261).
DESIGN CHOICE: the platform does not reset the engines together with the block, which R261 leaves to it: both engine ports,
the wire state and the engine operation in progress are kept (log 24). -/
def State.resetEvent (s : State) : State :=
  { s with
    i2c := s.i2cAfterRst
    uart := s.uartAfterRst
    env := { s.env with rst := s.env.rst.tail }
    free := s.free + 15 }

/-- The input `rst` is asserted before this step (log 11). -/
def State.rstDue (s : State) : Bool := s.env.rst.head? == some 0

/-! ### The moves of the environment before a step -/

/-- One step nearer to the next assertion of `rst` (log 11). -/
def State.rstTick (s : State) : State :=
  match s.env.rst with
  | (d + 1) :: rest => { s with env := { s.env with rst := d :: rest } }
  | _ => s

/-- The engine works on a requested stop; when it has put the stop on the wires, `wire.open` is 0 (R45, R46; log 15). -/
def State.stopTick (s : State) : State :=
  match s.wire.stop with
  | .ending 0 => { s with wire := { isOpen := false, stop := .none } }
  | .ending (d + 1) => { s with wire := { s.wire with stop := .ending d } }
  | _ => s

/-- The wire after a start condition: open, and a stop still in flight is over (R45; log 15). -/
def Wire.started : Wire := { isOpen := true, stop := .none }

/-- The engine puts the start condition of a requested START on the wires, at the moment the answer says (R45). -/
def State.startTick (s : State) : State :=
  match s.env.twCur with
  | some ⟨.start, a⟩ =>
    match a.startAfter with
    | some 0 => { s with wire := .started, env := { s.env with twCur := some ⟨.start, { a with startAfter := none }⟩ } }
    | some (d + 1) => { s with env := { s.env with twCur := some ⟨.start, { a with startAfter := some d }⟩ } }
    | none => s
  | _ => s

/-- An operation that ends now is a START whose start condition is on the wires at the latest now: the answer still names
a moment for it, or the status says that a start or repeated start was put (R45, R92). -/
def Operation.startsAtEnd (k : StatusCodes) (o : Operation) : Bool :=
  decide (o.cond = .start) &&
    (o.answer.startAfter.isSome || decide (maskStatus o.answer.status = k.start) ||
      decide (maskStatus o.answer.status = k.repStart))

/-- The engine works on the requested START or DATA operation; when it ends, `tw.cf` reads 1, and `tw.status` and `tw.dr`
are as the answer says (R32(b), R33). A DATA operation leaves the wire as it is; only a START opens it (R45). -/
def State.twTick (s : State) : State :=
  match s.env.twCur with
  | none => s
  | some o =>
    match o.answer.delay with
    | none => s
    | some 0 =>
      { s with
        tw := { s.tw with cf := true, status := o.answer.status, dr := o.answer.dr.getD s.tw.dr }
        wire := if o.startsAtEnd s.cfg.codes then .started else s.wire
        env := { s.env with twCur := none } }
    | some (d + 1) => { s with env := { s.env with twCur := some { o with answer := { o.answer with delay := some d } } } }

/-- While the UART unit polls, its engine's flags and receive register read as the next sample says (R43; log 8). -/
def State.uaTick (s : State) : State :=
  if s.uart.ph = .idle then s
  else match s.env.uaScript with
    | [] => s
    | x :: rest =>
      { s with
        ua := { s.ua with dre := x.dre, rxc := x.rxc, rdr := x.rdr }
        env := { s.env with uaScript := rest } }

/-- What the environment does before the units' step: the engines move, `rst` comes nearer. -/
def State.tick (s : State) : State := s.rstTick.stopTick.startTick.twTick.uaTick

end Sys2Proof.Machine
end

