-- ==== Sys2Proof/Machine/Conditions.lean ====
section
/-! DEFINITION. The meanings of `COND.START`, `COND.STOP`, `COND.DATA` and the reserved STAT (spec/40_i2c_conditions.md).
An issue step when `i2c.w` is 0, a completion step when it is 1 (R102). -/

namespace Sys2Proof.Machine

/-- `COND.START` (R103). -/
def execCondStart (s : State) : Host.Outcome State Fault Refusal := .next (s.waitedCond .start)

/-- `COND.STOP` (R105). -/
def execCondStop (s : State) : Host.Outcome State Fault Refusal := .next s.stopCond

/-- `COND.DATA` (R107). -/
def execCondData (s : State) : Host.Outcome State Fault Refusal := .next (s.waitedCond .data)

/-- The condition code `0b11`, STAT: as `STAT_POLICY` says (R89, U1). Under `as_data` it behaves exactly as `COND.DATA`:
the request made is DATA (log 21). -/
def execCondStatReserved (s : State) : Host.Outcome State Fault Refusal :=
  match s.cfg.statPolicy with
  | .refuse => .refused .statReserved
  | .asData => .next (s.waitedCond .data)

end Sys2Proof.Machine
end

