-- ==== Sys2Proof/Machine/I2cPhases.lean ====
section
/-! DEFINITION. The phase steps of the I2C unit (spec/42_i2c_transactions.md R145 to R162): the issue step, the completion
step with its outcome, the STOP step, and the table R148 of what each phase loads and requests. -/

namespace Sys2Proof.Machine

/-- `Cond(P)` (R148). No condition is requested in IDLE; the entry there is never used. -/
def condOf : Phase → Cond
  | .start | .rstart => .start
  | .stop => .stop
  | _ => .data

/-- `Load(P)` (R148): the byte loaded into `tw.dr` before the request. -/
def loadOf (u : I2cUnit) : Phase → Option Byte
  | .slaw => some (slaw u.dev u.daddr)
  | .addrHi => some (addrHigh u.addr)
  | .addrLo => some (addrLow u.addr)
  | .wdata => some u.val
  | .slar => some (slar u.dev u.daddr)
  | _ => none

/-- `Next(P, i2c.op)` (R147); `none` where R147 gives no next phase. -/
def nextPhase (op : BitVec 2) : Phase → Option Phase
  | .start => some .slaw
  | .slaw => some .addrHi
  | .addrHi => some .addrLo
  | .addrLo => if op = 1#2 then some .wdata else if op = 2#2 then some .rstart else none
  | .rstart => some .slar
  | .slar => some .rdata
  | _ => none

/-- The load of the phase, if it has one (R145). -/
def State.loadPhase (s : State) : State :=
  match loadOf s.i2c s.i2c.ph with
  | some b => s.engWriteDr b
  | none => s

/-- The issue step of a waited phase: the load first, then the request, then `i2c.w` (R145). -/
def State.issueStep (s : State) : State := s.loadPhase.waitedCond (condOf s.i2c.ph)

/-- Outcome SUCCESS (R155, R158): the received byte goes to the output slot in phase RDATA only. -/
def State.succeed (s : State) : State :=
  { s with
    i2c :=
      { s.i2c with
        rdata := if s.i2c.ph = .rdata then s.tw.dr else s.i2c.rdata
        ok := true, cause := .ok, ph := .stop } }

/-- The outcome of the status decoder applied to the phase (R146, R147, R155, R158, R160 to R162). -/
def applyOutcome (s : State) : Host.Outcome State Fault Refusal :=
  match decodeStatus s.cfg.codes s.i2c.ph s.i2c.st with
  | .continue_ =>
    match nextPhase s.i2c.op s.i2c.ph with
    | some p => .next { s with i2c := { s.i2c with ph := p } }
    | none => .fault .noNextPhase
  | .success => .next s.succeed
  | .raise e => .next (s.takeEvent e)

/-- The completion step of a waited phase: it waits for `tw.cf`, reads the status and applies the outcome, in one step
(R146). While `tw.cf` reads 0 the unit polls and nothing changes (R109; log 14). -/
def completionStep (s : State) : Host.Outcome State Fault Refusal :=
  if s.tw.cf then applyOutcome (s.waitedCond (condOf s.i2c.ph)) else .next s

/-- The STOP step (R159). -/
def State.stopStep (s : State) : State :=
  let s1 := s.stopCond
  { s1 with i2c := { s1.i2c with done := true, ph := .idle } }

/-- The step of the I2C unit in its current phase (table R150); in IDLE it has none. -/
def i2cUnitStep (s : State) : Host.Outcome State Fault Refusal :=
  match s.i2c.ph with
  | .idle => .next s
  | .stop => .next s.stopStep
  | _ => if s.i2c.w then completionStep s else .next s.issueStep

end Sys2Proof.Machine
end

