-- ==== Sys2Proof/Machine/UartPhases.lean ====
section
/-! DEFINITION. The TXW and RXW steps of the UART unit (spec/43_uart.md R196, R198, table R199). -/

namespace Sys2Proof.Machine

/-- The byte the TXW step hands over (R196): `u.byte` for `UART.TX_BYTE`, else the next byte of the caller buffer. -/
def State.txByte (s : State) : Option Byte :=
  if s.uart.op = 1#2 then some s.uart.byte else s.memRead (s.uart.bufp.toNat + s.uart.idx.toNat)

/-- The UART unit after a byte was handed over: the last byte completes the command (R196). -/
def sentUart (u : UartUnit) : UartUnit :=
  if u.idx.toNat + 1 = u.len.toNat then { u with idx := u.idx + 1#16, done := true, ph := .idle }
  else { u with idx := u.idx + 1#16 }

/-- The TXW step: it waits for `ua.dre`, then hands the byte to the engine (R196). While the flag reads 0 the unit polls
and nothing changes (log 14). -/
def txwStep (s : State) : Host.Outcome State Fault Refusal :=
  if s.ua.dre then
    match s.txByte with
    | none => .fault .bufferAddress
    | some b =>
      let s1 := s.engWriteTdr b
      .next { s1 with uart := sentUart s1.uart }
  else .next s

/-- The RXW step: it waits for `ua.rxc`, then takes the received byte (R198). -/
def rxwStep (s : State) : Host.Outcome State Fault Refusal :=
  if s.ua.rxc then
    let s1 := s.engReadRdr
    .next { s1 with uart := { s1.uart with rx := s.ua.rdr, done := true, ph := .idle } }
  else .next s

/-- The step of the UART unit in its current phase (table R199); in IDLE it has none. -/
def uartUnitStep (s : State) : Host.Outcome State Fault Refusal :=
  match s.uart.ph with
  | .idle => .next s
  | .txw => txwStep s
  | .rxw => rxwStep s

end Sys2Proof.Machine
end

