-- ==== Sys2Proof/Machine/Agents.lean ====
section
/-! DEFINITION. Which agent makes the next step (spec/00_scope.md R14, R16; spec/60_exceptions.md R236): the reset input, the
unit that is not idle, or the host with its next action. -/

namespace Sys2Proof.Machine

/-- What the next step is. -/
inductive Move where
  /-- The configuration is illegal: the block is not instantiated (R11, R92). -/
  | refuseConfig
  /-- `rst` is asserted (R260). -/
  | reset
  /-- A step of the I2C unit in its phase (R145, R146, R159). -/
  | i2c
  /-- The completion step of a condition an exposed primitive was called with (log 10). -/
  | primWait
  /-- A step of the UART unit in its phase (R196, R198). -/
  | uart
  /-- An exposed primitive is called with a condition code (R89; log 10). -/
  | primCall (c : BitVec 2)
  /-- The host places a byte of its buffer (R62). -/
  | fill (a : Half) (b : Byte)
  /-- The host presents a command word (R48). -/
  | command (p : Port) (w : Word48)
  /-- Nothing to do: both units wait for a command. -/
  | wait
  deriving DecidableEq, Repr

/-- The next move. The host acts only when both units are idle (R236); were both busy, which no run from reset reaches,
the I2C unit would move first (log 17). -/
def State.move (s : State) : Move :=
  if configLegal s.cfg = false then .refuseConfig
  else if s.rstDue then .reset
  else if s.i2c.ph ≠ .idle then .i2c
  else if s.i2c.w then .primWait
  else if s.uart.ph ≠ .idle then .uart
  else match s.env.primCalls with
    | c :: _ => .primCall c
    | [] => match s.env.host with
      | .fill a b :: _ => .fill a b
      | .present p w :: _ => .command p w
      | [] => .wait

/-- The host's next action is taken off its list. -/
def State.popHost (s : State) : State := { s with env := { s.env with host := s.env.host.tail } }

/-- The next call of an exposed primitive is taken off its list. -/
def State.popPrim (s : State) : State := { s with env := { s.env with primCalls := s.env.primCalls.tail } }

/-- The completion step of a called primitive; START and DATA complete alike (R103, R107). -/
def State.primComplete (s : State) : State := s.waitedCond .data

/-- The state in which the next step takes the given word: presented on a command port with both units idle, or given
to the primitive. -/
def State.presenting (s : State) (e : Encoded) : State :=
  { s with
    i2c := { s.i2c with ph := .idle, w := false }
    uart := { s.uart with ph := .idle }
    env :=
      match e with
      | .command p w => { s.env with rst := [], primCalls := [], host := .present p w :: s.env.host }
      | .cond c => { s.env with rst := [], primCalls := c :: s.env.primCalls } }

/-- The encoded form of an opcode-table word as `decodeTableWord` reads it (log 12). -/
def tableEncoded (nbits w : Nat) : Encoded :=
  if nbits ≤ 8 then .cond (BitVec.ofNat 2 w) else .command .i2c (BitVec.ofNat 48 w)

end Sys2Proof.Machine
end

