-- ==== Sys2Proof/Machine/I2cCommands.lean ====
section
/-! DEFINITION. The meanings of the I2C commands at their accept step (spec/42_i2c_transactions.md R140, R143). The phases
that follow an accepted transaction are the I2C unit's steps, Sys2Proof/Machine/I2cPhases.lean. -/

namespace Sys2Proof.Machine

/-- `I2C.INIT`: accepted and executed in one step (R140). A bit-rate value outside 0..255 is refused (R141). -/
def execI2cInit (s : State) : Host.Outcome State Fault Refusal :=
  if s.i2c.ph ≠ .idle then .refused .unitBusy
  else if clockLegal s.cfg = false then .refused .configurationRefused
  else
    let s1 := s.engWriteBrr (bitRate s.cfg)
    .next { s1 with i2c := { s1.i2c with inited := true, done := true } }

/-- The I2C unit after the accept step of a transaction command (R143). -/
def acceptedI2c (u : I2cUnit) (op : BitVec 2) (device daddr : Byte) (address : Half) (value : Byte) : I2cUnit :=
  { u with
    op := op, dev := device, daddr := daddr, addr := address, val := value
    n := 0#3, ok := false, exh := false, cause := .ok, done := false, w := false, ph := .start }

/-- The accept step of a transaction command (R143, R235, R265). -/
def acceptTransaction (op : BitVec 2) (device daddr : Byte) (address : Half) (value : Byte) (s : State) :
    Host.Outcome State Fault Refusal :=
  if s.i2c.ph ≠ .idle then .refused .unitBusy
  else if s.i2c.inited = false then .refused .notInitialised
  else .next { s with i2c := acceptedI2c s.i2c op device daddr address value }

/-- `I2C.SEND_BYTE`, opcode `0b01` (R163). -/
def execI2cSendByte (device daddr : Byte) (address : Half) (value : Byte) (s : State) :
    Host.Outcome State Fault Refusal :=
  acceptTransaction 1#2 device daddr address value s

/-- `I2C.READ_BYTE`, opcode `0b10` (R164). The unused `value` field is latched too (R143; log 13). -/
def execI2cReadByte (device daddr : Byte) (address : Half) (value : Byte) (s : State) :
    Host.Outcome State Fault Refusal :=
  acceptTransaction 2#2 device daddr address value s

/-- The reserved opcode `0b11`: not accepted, the model refuses (R94, U3). -/
def execI2cReservedOp3 (_s : State) : Host.Outcome State Fault Refusal := .refused .reservedOpcode

end Sys2Proof.Machine
end

