-- ==== Sys2Proof/Machine/UartCommands.lean ====
section
/-! DEFINITION. The meanings of the UART commands at their accept step (spec/43_uart.md R191 to R197). The TXW and RXW steps
that follow are the UART unit's steps, Sys2Proof/Machine/UartPhases.lean. -/

namespace Sys2Proof.Machine

/-- The four configuration writes of `UART.INIT`, in their order (R75(c), R192). -/
def State.uartProgram (s : State) (d : Half) (fmt : Byte) : State :=
  (((s.engWriteBrrh (d.extractLsb' 8 8)).engWriteBrrl (d.extractLsb' 0 8)).engWriteEn 3#2).engWriteFmt fmt

/-- `UART.INIT` (R191, R192, R193): accepted and executed in one step. -/
def execUartInit (baud : BitVec 32) (fmt : Byte) (s : State) : Host.Outcome State Fault Refusal :=
  if s.uart.ph ≠ .idle then .refused .unitBusy
  else if baudLegal s.cfg baud = false then .refused .baudOutOfRange
  else
    let s1 := s.uartProgram (baudDivisor s.cfg baud) (frameFormat s.cfg fmt)
    .next { s1 with uart := { s1.uart with op := 0#2, baud := baud, fmt := fmt, inited := true, done := true } }

/-- The accept condition of the three transfer commands (R191, R235, R266): what follows runs when it holds. -/
def acceptTransfer (s : State) (k : Host.Outcome State Fault Refusal) : Host.Outcome State Fault Refusal :=
  if s.uart.ph ≠ .idle then .refused .unitBusy
  else if s.uart.inited = false then .refused .notInitialised
  else k

/-- `UART.TX_BYTE` (R191, R194). -/
def execUartTxByte (byte : Byte) (s : State) : Host.Outcome State Fault Refusal :=
  acceptTransfer s
    (.next { s with uart := { s.uart with op := 1#2, done := false, byte := byte, len := 1#16, idx := 0#16, ph := .txw } })

/-- `UART.TX_BUFFER` (R191, R195): refused past the top of the buffer space (R70), complete at once when `len = 0`. -/
def execUartTxBuffer (base len : Half) (s : State) : Host.Outcome State Fault Refusal :=
  acceptTransfer s
    (if bufferFits base len = false then .refused .bufferOutOfRange
     else if len = 0#16 then
       .next { s with uart := { s.uart with op := 2#2, done := true, bufp := base, len := len, idx := 0#16 } }
     else
       .next { s with uart := { s.uart with op := 2#2, done := false, bufp := base, len := len, idx := 0#16, ph := .txw } })

/-- `UART.RX_BYTE` (R191, R197). -/
def execUartRxByte (s : State) : Host.Outcome State Fault Refusal :=
  acceptTransfer s (.next { s with uart := { s.uart with op := 3#2, done := false, ph := .rxw } })

end Sys2Proof.Machine
end

