-- ==== Sys2Proof/Machine/Dispatch.lean ====
section
/-! DEFINITION. `exec`: one arm per instruction. -/

namespace Sys2Proof.Machine

-- The meaning of an instruction at the state in which it is taken.
def exec (i : Instr) (s : State) : Host.Outcome State Fault Refusal :=
  match i with
  | .i2cInit => Sys2Proof.Machine.execI2cInit s
  | .i2cSendByte device daddr address value => Sys2Proof.Machine.execI2cSendByte device daddr address value s
  | .i2cReadByte device daddr address value => Sys2Proof.Machine.execI2cReadByte device daddr address value s
  | .i2cReservedOp3 => Sys2Proof.Machine.execI2cReservedOp3 s
  | .uartInit baud fmt => Sys2Proof.Machine.execUartInit baud fmt s
  | .uartTxByte byte => Sys2Proof.Machine.execUartTxByte byte s
  | .uartTxBuffer base len => Sys2Proof.Machine.execUartTxBuffer base len s
  | .uartRxByte => Sys2Proof.Machine.execUartRxByte s
  | .condStart => Sys2Proof.Machine.execCondStart s
  | .condStop => Sys2Proof.Machine.execCondStop s
  | .condData => Sys2Proof.Machine.execCondData s
  | .condStatReserved => Sys2Proof.Machine.execCondStatReserved s

end Sys2Proof.Machine
end

