-- ==== Sys2Proof/Machine/Step.lean ====
section
/-! DEFINITION. One step of the machine (spec/00_scope.md R14): the environment moves, then the agent whose turn it is. -/

namespace Sys2Proof.Machine

/-- A command word taken from a port: decoded, then given its meaning; a reserved word is refused (R94). -/
def execWord (p : Port) (w : Word48) (s : State) : Host.Outcome State Fault Refusal :=
  match decode (.command p w) with
  | .error _ => .refused .reservedWord
  | .ok i => exec i s

/-- One step. -/
def step (s : State) : Host.Outcome State Fault Refusal :=
  match s.move with
  | .refuseConfig => .refused .configurationRefused
  | .reset => .next s.resetEvent
  | .i2c => i2cUnitStep s.tick
  | .primWait => .next s.tick.primComplete
  | .uart => uartUnitStep s.tick
  | .primCall c => exec (decodeCond c) s.tick.popPrim
  | .fill a b => .next (s.tick.popHost.fillBuffer a b)
  | .command p w => execWord p w s.tick.popHost
  | .wait => .next s.tick

/-- `s` with an opcode-table word where the next step takes its instruction (logs 9 and 12). -/
def State.withFetchWord (s : State) (nbits w : Nat) : State := s.presenting (tableEncoded nbits w)

end Sys2Proof.Machine
end

