-- ==== Sys2Proof/Safety.lean ====
section
/-! DEFINITION. What the claims speak of: the invariant of the block, runs of several steps, what a port trace shows of the
bus, and the number of requests a command can still make. -/

namespace Sys2Proof.Machine

/-! ### The invariant -/

/-- A phase whose condition is waited for (R27): START to RDATA. -/
def Phase.waited : Phase → Bool
  | .idle | .stop => false
  | _ => true

/-- The opcode register fits the phase: WDATA belongs to a write, RSTART, SLAR and RDATA to a read (R142). -/
def opFits (op : BitVec 2) : Phase → Bool
  | .idle => true
  | .wdata => decide (op = 1#2)
  | .rstart | .slar | .rdata => decide (op = 2#2)
  | _ => decide (op = 1#2) || decide (op = 2#2)

/-- The invariant of the I2C unit (R25, R27, R28, R29, R142, R149). -/
structure I2cInv (c : Config) (u : I2cUnit) : Prop where
  /-- R25: the retry counter never holds 6 or 7. -/
  counter : u.n ≤ Config.retries
  /-- R27: the wait bit is 1 only in the waited phases. -/
  waitBit : u.w = true → u.ph.waited = true
  /-- R28: bits 2:0 of the status latch are 0. -/
  latch : maskStatus u.st = u.st
  /-- R142: only a transaction has phases, each its own. -/
  opcode : opFits u.op u.ph = true
  /-- R143: a command in progress was accepted after `I2C.INIT`. -/
  booted : u.ph ≠ .idle → u.inited = true
  /-- R143, R159, R161: `done` is 0 while a command is in progress. -/
  notDone : u.ph ≠ .idle → u.done = false
  /-- R149: `ok` is 1 only in phase STOP or after completion. -/
  okLate : u.ok = true → u.ph.waited = false
  /-- R149: `exh` is 1 only after completion, or in phase STOP when `STOP_ON_EXHAUSTION` is true. -/
  exhLate : u.exh = true → u.ph = .idle ∨ (u.ph = .stop ∧ c.stopOnExhaustion = true)
  /-- R220: a command that succeeded is not exhausted and has cause OK. -/
  okCause : u.ok = true → u.exh = false ∧ u.cause = .ok

/-- The invariant of the UART unit (R35, R70, R191, R196). -/
structure UartInv (u : UartUnit) : Prop where
  /-- R196: in TXW a byte is left to send. -/
  left : u.ph = .txw → u.idx.toNat < u.len.toNat
  /-- R191: in TXW the command is one of the two transmit commands. -/
  opcode : u.ph = .txw → u.op = 1#2 ∨ u.op = 2#2
  /-- R70: the buffer in progress lies inside the buffer space. -/
  inside : u.ph = .txw → u.op = 2#2 → u.bufp.toNat + u.len.toNat ≤ Config.bufferSize
  /-- R266: a command in progress was accepted after `UART.INIT`. -/
  booted : u.ph ≠ .idle → u.inited = true
  /-- R191: `done` is 0 while a command is in progress. -/
  notDone : u.ph ≠ .idle → u.done = false

/-- The invariant of the block: both units' invariants, at most one command in progress (R236), the buffer in its
canonical form, and no exposed primitive in use (R96: the host cannot call it; log 10). -/
structure Inv (s : State) : Prop where
  i2c : I2cInv s.cfg s.i2c
  uart : UartInv s.uart
  oneCommand : s.i2c.ph = .idle ∨ s.uart.ph = .idle
  buffer : memWf s.mem = true
  notExposed : s.env.primCalls = []

/-! ### When the units take a command -/

/-- Both units wait for a command (R48, R236), the configuration is legal (R11, R92), no reset is due (log 11) and no
exposed primitive is under way (log 10). -/
structure Ready (s : State) : Prop where
  legal : configLegal s.cfg = true
  noReset : s.rstDue = false
  i2cIdle : s.i2c.ph = .idle
  notWaiting : s.i2c.w = false
  uartIdle : s.uart.ph = .idle

/-- The instruction of a waited condition. -/
def waitedInstr : Bool → Instr
  | false => .condStart
  | true => .condData

/-- The condition of `waitedInstr`. -/
def waitedOf : Bool → Cond
  | false => .start
  | true => .data

/-- The completion step of a waited phase is enabled (R146). -/
structure Completing (s : State) : Prop where
  phase : s.i2c.ph.waited = true
  wait : s.i2c.w = true
  flag : s.tw.cf = true

/-- The decoder's outcome for the status the engine shows (R146). -/
def outcomeNow (s : State) : DecodeOutcome := decodeStatus s.cfg.codes s.i2c.ph (maskStatus s.tw.status)

/-- The statuses a phase expects or retries on (R121, R124 to R129). -/
def listedStatuses (k : StatusCodes) : Phase → List Byte
  | .start | .rstart => [k.arbLost, k.start, k.repStart]
  | .slaw => [k.mtSlaNack, k.arbLost, k.mtSlaAck]
  | .addrHi | .addrLo | .wdata => [k.mtDataAck]
  | .slar => [k.mrSlaAck, k.mrSlaNack, k.arbLost]
  | .rdata => [k.mrDataNack]
  | .idle | .stop => []

/-- Nothing of the UART side, the buffer or the parameters differs (R2, R20). -/
def SameUartSide (s t : State) : Prop :=
  t.cfg = s.cfg ∧ t.uart = s.uart ∧ t.ua = s.ua ∧ t.uartTrace = s.uartTrace ∧ t.mem = s.mem

/-- Nothing of the I2C side, the buffer or the parameters differs (R2, R20). -/
def SameI2cSide (s t : State) : Prop :=
  t.cfg = s.cfg ∧ t.i2c = s.i2c ∧ t.tw = s.tw ∧ t.wire = s.wire ∧ t.i2cTrace = s.i2cTrace ∧ t.mem = s.mem

/-- The step of the I2C unit is an issue step that loads the given byte, if any, into `tw.dr` and then requests the given
condition; nothing else of the block changes but the free status byte (R145). The engine takes its next answer, in place of an
operation still in progress: the model's form (logs 1 and 23). -/
def IssuesWith (s : State) (load : Option Byte) (c : Cond) : Prop :=
  ∃ t, i2cUnitStep s = .next t ∧ t.i2c = { s.i2c with w := true } ∧
    t.tw = { s.tw with dr := load.getD s.tw.dr, cond := condCode c, cf := false, status := t.tw.status } ∧
    t.i2cTrace = s.i2cTrace ++ (load.map I2cEvent.wrDr).toList ++ [.req c] ∧
    t.env = { s.env with twCur := operationOf c s.env.twScript, twScript := s.env.twScript.tail } ∧ t.wire = s.wire ∧
    SameUartSide s t

/-- The state after a completion step that leaves the I2C unit as `u`: the trace gains the engine's answer (R146). -/
def completedAs (s : State) (u : I2cUnit) : State :=
  { s with i2c := u, i2cTrace := s.i2cTrace ++ [.done s.tw.status s.tw.dr] }

/-- The I2C unit with the status latched and the wait bit cleared (R146). -/
def latched (s : State) : I2cUnit := { s.i2c with st := maskStatus s.tw.status, w := false }

/-! ### Runs -/

/-- `k` steps, stopping at the first fault or refusal. -/
def runFor : Nat → State → Host.Outcome State Fault Refusal
  | 0, s => .next s
  | k + 1, s =>
    match step s with
    | .next t => runFor k t
    | .fault f => .fault f
    | .refused r => .refused r

/-- No assertion of `rst` is to come (log 11). -/
def State.noRst (s : State) : Prop := s.env.rst = []

/-- An answer given at once with the given masked status (R33, R120). -/
def answersAtOnce (a : Answer) (code : Byte) : Prop := a.delay = some 0 ∧ maskStatus a.status = code

/-! ### What the bus observes -/

/-- The unit's part of an I2C port trace: writes and requests, without the engine's answers (R15). -/
def driven : List I2cEvent → List I2cEvent
  | [] => []
  | .done _ _ :: es => driven es
  | e :: es => e :: driven es

/-- The number of requests in an I2C port trace (R71). -/
def requests : List I2cEvent → Nat
  | [] => 0
  | .req _ :: es => requests es + 1
  | _ :: es => requests es

/-! ### The bound on the requests of a command (R71, R167) -/

/-- The requests one attempt still makes from a phase on, if it ends in success: the waited phases left. -/
def attemptLeft (op : BitVec 2) : Phase → Nat
  | .start => if op = 1#2 then 5 else 7
  | .slaw => if op = 1#2 then 4 else 6
  | .addrHi => if op = 1#2 then 3 else 5
  | .addrLo => if op = 1#2 then 2 else 4
  | .wdata => 1
  | .rstart => 3
  | .slar => 2
  | .rdata => 1
  | .idle | .stop => 0

/-- The requests an attempt still makes from a phase on, if it ends in a retry at the latest retryable phase (SLAW of a
write, SLAR of a read); 0 where no retry is ahead. -/
def retryLeft (op : BitVec 2) : Phase → Nat
  | .start => if op = 1#2 then 2 else 6
  | .slaw => if op = 1#2 then 1 else 5
  | .addrHi => if op = 1#2 then 0 else 4
  | .addrLo => if op = 1#2 then 0 else 3
  | .rstart => 2
  | .slar => 1
  | _ => 0

/-- A retry is possible in or after the phase. -/
def retryAhead (op : BitVec 2) (p : Phase) : Bool := decide (retryLeft op p ≠ 0)

/-- An upper bound of the requests a command can still make from the attempt `n` and phase `p` on, none made yet in the
phase: this attempt and STOP, or this attempt to a retry, four fewer full retried attempts, a last attempt and STOP. -/
def budgetAt (op : BitVec 2) (n : Nat) (p : Phase) : Nat :=
  match p with
  | .idle => 0
  | _ =>
    if retryAhead op p && decide (n < 5) then
      retryLeft op p + (4 - n) * retryLeft op .start + attemptLeft op .start + 1
    else attemptLeft op p + 1

/-- The requests the command in progress can still make: the one of a waiting phase is made already. -/
def requestBudget (u : I2cUnit) : Nat := budgetAt u.op u.n.toNat u.ph - (if u.w then 1 else 0)

end Sys2Proof.Machine
end

