-- ==== Sys2Proof/WellFormed.lean ====
section
/-! DEFINITION. Which instructions a unit can accept at all, whatever its state: not a reserved encoding
(spec/30_encoding.md R89, R94), a legal baud rate (spec/43_uart.md R193), a buffer inside the buffer space
(spec/20_memory.md R70). The operand widths are in the types of the constructors. -/

namespace Sys2Proof

/-- Well-formed under a configuration: the operand conditions of R70 and R193 hold and the encoding is not reserved. -/
def Instr.wf (c : Config) : Instr → Bool
  | .i2cInit => true
  | .i2cSendByte _ _ _ _ => true
  | .i2cReadByte _ _ _ _ => true
  | .i2cReservedOp3 => false
  | .uartInit baud _ => Machine.baudLegal c baud
  | .uartTxByte _ => true
  | .uartTxBuffer base len => Machine.bufferFits base len
  | .uartRxByte => true
  | .condStart => true
  | .condStop => true
  | .condData => true
  | .condStatReserved => decide (c.statPolicy = .asData)

end Sys2Proof
end

