-- ==== Sys2Proof/Certificates/Slice0/Obligations.lean ====
section
/-! DEFINITION. The statements for the provers. OBLIGATIONS.json lists them with the rules of spec/ they come from. -/

open Sys2Proof Sys2Proof.Machine

/-! ### Reset, invariants, whole-machine rules -/

/-- R51, R262: what reset leaves, for every configuration; the values R51 leaves unspecified are the model's (log 3) and are
not stated here. -/
def Obligations.ResetValues : Prop :=
  ∀ c : Config, let s := State.resetOf c
    s.i2c.ph = .idle ∧ s.i2c.w = false ∧ s.i2c.n = 0#3 ∧ s.i2c.ok = false ∧ s.i2c.exh = false ∧ s.i2c.cause = .ok ∧
    s.i2c.done = false ∧ s.i2c.inited = false ∧ s.uart.ph = .idle ∧ s.uart.done = false ∧ s.uart.inited = false ∧
    s.i2cTrace = [] ∧ s.uartTrace = [] ∧ s.wire.isOpen = false ∧ s.wire.stop = .none ∧
    State.reset = State.resetOf Config.default

/-- The invariant holds after reset, whatever the parameters. -/
def Obligations.ResetMeetsInvariant : Prop := ∀ c : Config, Inv (State.resetOf c)

/-- Every step keeps the invariant (R25, R27, R28, R149, R236; the buffer's canonical form; log 10). -/
def Obligations.StepKeepsInvariant : Prop := ∀ s t : State, Inv s → step s = .next t → Inv t

/-- From a state that meets the invariant no step faults: both faults of the model are unreachable (log 16). -/
def Obligations.InvariantExcludesFaults : Prop := ∀ (s : State) (f : Fault), Inv s → step s ≠ .fault f

/-- A command in progress is never refused: while a unit is busy every step answers a next state. -/
def Obligations.BusyUnitsAlwaysStep : Prop :=
  ∀ s : State, Inv s → configLegal s.cfg = true → s.i2c.ph ≠ .idle ∨ s.uart.ph ≠ .idle → ∃ t, step s = .next t

/-- No step changes a parameter of the instance (R50). -/
def Obligations.ParametersNeverChange : Prop := ∀ s t : State, step s = .next t → t.cfg = s.cfg

/-- A step changes a byte of the caller buffer only where the host places it (R62). -/
def Obligations.BufferChangedByHostOnly : Prop :=
  ∀ (s t : State) (a : Nat), memWf s.mem = true → step s = .next t → memGet t.mem a ≠ memGet s.mem a →
    ∃ (b : Half) (v : Byte) (rest : List HostAction),
      s.env.host = .fill b v :: rest ∧ a = b.toNat ∧ memGet t.mem a = v

/-- No step of one unit, and no instruction of one unit, touches the other unit, its engine port or its trace (R2, R20). -/
def Obligations.UnitsAreSeparate : Prop :=
  (∀ s t : State, i2cUnitStep s = .next t → SameUartSide s t) ∧
  (∀ s t : State, uartUnitStep s = .next t → SameI2cSide s t) ∧
  (∀ (s t : State) (w : Word48) (i : Instr), decode (.command .i2c w) = .ok i → exec i s = .next t → SameUartSide s t) ∧
  (∀ (s t : State) (c : BitVec 2), exec (decodeCond c) s = .next t → SameUartSide s t) ∧
  (∀ (s t : State) (w : Word48) (i : Instr), decode (.command .uart w) = .ok i → exec i s = .next t → SameI2cSide s t)

/-- Only `I2C.INIT` writes `tw.brr` (R31). That the register also stays as it was in a reset step rests on the model's choice
that the platform resets no engine with the block (log 24). -/
def Obligations.BitRateWrittenByInitOnly : Prop :=
  ∀ s t : State, step s = .next t → t.tw.brr ≠ s.tw.brr →
    ∃ (w : Word48) (rest : List HostAction),
      s.env.host = .present .i2c w :: rest ∧ decode (.command .i2c w) = .ok .i2cInit

/-- Only `UART.INIT` writes the four configuration registers; `ua.tdr` is written only by a TXW step that sees
`ua.dre = 1` (R41, R75(a)). That these registers also stay as they were in a reset step rests on the model's choice that the
platform resets no engine with the block (log 24). -/
def Obligations.UartPortWriters : Prop :=
  ∀ s t : State, step s = .next t →
    (t.ua.brrh ≠ s.ua.brrh ∨ t.ua.brrl ≠ s.ua.brrl ∨ t.ua.en ≠ s.ua.en ∨ t.ua.fmt ≠ s.ua.fmt →
      ∃ (w : Word48) (rest : List HostAction) (baud : BitVec 32) (fmt : Byte),
        s.env.host = .present .uart w :: rest ∧ decode (.command .uart w) = .ok (.uartInit baud fmt)) ∧
    (t.ua.tdr ≠ s.ua.tdr → s.uart.ph = .txw ∧ s.tick.ua.dre = true)

/-- `i2c.rdata` is written only by the success outcome of phase RDATA (R23), but for a reset, which leaves it unspecified
(R260). -/
def Obligations.OutputSlotWrittenBySuccessfulReadOnly : Prop :=
  ∀ s t : State, step s = .next t → t.i2c.rdata ≠ s.i2c.rdata → s.rstDue = false →
    s.i2c.ph = .rdata ∧ s.i2c.w = true ∧ s.tick.tw.cf = true ∧
    maskStatus s.tick.tw.status = s.cfg.codes.mrDataNack ∧ t.i2c.rdata = s.tick.tw.dr ∧ t.i2c.ok = true

/-- A step only adds to the port traces (R15). That the traces stand in the state, and that a reset in mid-run does not empty
them, is the model's choice (log 19). -/
def Obligations.TracesOnlyGrow : Prop :=
  ∀ s t : State, step s = .next t →
    (∃ l, t.i2cTrace = s.i2cTrace ++ l) ∧ (∃ l, t.uartTrace = s.uartTrace ++ l)

/-- While a unit is busy the host presents nothing and places nothing; it waits for the command to complete (R73, R236). -/
def Obligations.HostWaitsForBusyUnits : Prop :=
  ∀ s t : State, step s = .next t → s.i2c.ph ≠ .idle ∨ s.uart.ph ≠ .idle → t.env.host = s.env.host

/-- The reset event: both units return to their initial state whatever they were doing, no port event, neither engine port
nor the wires change (R260, R261; that the platform resets no engine with the block is the model's choice, log 24). The
unspecified registers are free values (log 6): nothing is stated of them but that bits 2:0 of `i2c.st` are 0 (R28). -/
def Obligations.ResetEventReturnsUnitsToIdle : Prop :=
  ∀ s : State, configLegal s.cfg = true → s.rstDue = true → ∃ t, step s = .next t ∧
    t.i2c.ph = .idle ∧ t.i2c.w = false ∧ t.i2c.n = 0#3 ∧ t.i2c.ok = false ∧ t.i2c.exh = false ∧ t.i2c.cause = .ok ∧
    t.i2c.done = false ∧ t.i2c.inited = false ∧ maskStatus t.i2c.st = t.i2c.st ∧ t.uart.ph = .idle ∧
    t.uart.done = false ∧ t.uart.inited = false ∧ t.tw = s.tw ∧ t.ua = s.ua ∧ t.wire = s.wire ∧
    t.i2cTrace = s.i2cTrace ∧ t.uartTrace = s.uartTrace ∧ t.mem = s.mem ∧ t.cfg = s.cfg ∧
    t.env = { s.env with rst := s.env.rst.tail }

/-- R11: the configurations of the clock that are legal, and an illegal configuration is refused by every step. -/
def Obligations.IllegalConfigurationRefused : Prop :=
  (∀ c : Config, clockLegal c = true ↔ 4000000 ≤ c.fCpu ∧ c.fCpu < 132000000) ∧
  (∀ c : Config, clockLegal c = false → configLegal c = false) ∧
  (∀ s : State, configLegal s.cfg = false → step s = .refused .configurationRefused)

/-! ### Encoding -/

/-- Decode of encode is the instruction, for every instruction and every operand. -/
def Obligations.DecodeOfEncode : Prop := ∀ i : Instr, decode (encode i) = .ok i

/-- Encode of decode is the word less the fields the model's instruction does not use (R82, R85): no used bit is dropped, and
no ignored bit is kept but the value field of a read. R82 lists that field as ignored; by the model's reading it is kept,
because R143 latches it (log 13). -/
def Obligations.EncodeOfDecode : Prop :=
  ∀ (p : Port) (w : Word48) (i : Instr), decode (.command p w) = .ok i → encode i = .command p (w &&& usedMask i)

/-- The worked encodings of R97, and the condition codes of R88 and R89. -/
def Obligations.WorkedEncodings : Prop :=
  decode (.command .i2c 0x000000000000#48) = .ok .i2cInit ∧
  decode (.command .i2c 0x01A00001235A#48) = .ok (.i2cSendByte 0xA0 0x00 0x0123 0x5A) ∧
  decode (.command .i2c 0x02A000012300#48) = .ok (.i2cReadByte 0xA0 0x00 0x0123 0x00) ∧
  decode (.command .i2c 0x015005FFFF00#48) = .ok (.i2cSendByte 0x50 0x05 0xFFFF 0x00) ∧
  decode (.command .uart 0x000000258000#48) = .ok (.uartInit 9600 0x00) ∧
  decode (.command .uart 0x000001C20006#48) = .ok (.uartInit 115200 0x06) ∧
  decode (.command .uart 0x010000000048#48) = .ok (.uartTxByte 0x48) ∧
  decode (.command .uart 0x020100000200#48) = .ok (.uartTxBuffer 0x0100 0x0002) ∧
  decode (.command .uart 0x030000000000#48) = .ok .uartRxByte ∧
  decode (.cond 0#2) = .ok .condStart ∧ decode (.cond 1#2) = .ok .condStop ∧ decode (.cond 2#2) = .ok .condData ∧
  decode (.cond 3#2) = .ok .condStatReserved

/-- A word whose `zero` field is not 0, or an I2C word with opcode `0b11`, is refused when it is presented (R94). -/
def Obligations.ReservedWordsRefused : Prop :=
  ∀ (s : State) (p : Port) (w : Word48) (rest : List HostAction), Ready s → s.env.primCalls = [] →
    s.env.host = .present p w :: rest →
    (w.extractLsb' 42 6 ≠ 0#6 → step s = .refused .reservedWord) ∧
    (w.extractLsb' 42 6 = 0#6 → w.extractLsb' 40 2 = 3#2 → p = .i2c → step s = .refused .reservedOpcode)

/-! ### The step runs what is presented -/

/-- A step with a word on a command port runs the decoded instruction at the state after the environment's move, the word
taken from the port (R48, R87). -/
def Obligations.StepRunsPresentedWord : Prop :=
  ∀ (s : State) (p : Port) (w : Word48) (rest : List HostAction) (i : Instr), Ready s → s.env.primCalls = [] →
    s.env.host = .present p w :: rest → decode (.command p w) = .ok i →
    step s = exec i { s.tick with env := { s.tick.env with host := rest } }

/-- A step with a call of an exposed primitive runs the condition's instruction (R89; log 10). -/
def Obligations.StepRunsCalledPrimitive : Prop :=
  ∀ (s : State) (c : BitVec 2) (rest : List (BitVec 2)), Ready s → s.env.primCalls = c :: rest →
    step s = exec (decodeCond c) { s.tick with env := { s.tick.env with primCalls := rest } }

/-- A step while a unit is busy is that unit's step (R14), after the environment's move, which is the model's form of the
engines (log 1); were both units busy, the I2C unit would move first, the model's choice (log 17); a due reset, whose form
is the model's (log 11), is left to `ResetEventReturnsUnitsToIdle`. -/
def Obligations.StepRunsBusyUnit : Prop :=
  ∀ s : State, configLegal s.cfg = true → s.rstDue = false →
    (s.i2c.ph ≠ .idle → step s = i2cUnitStep s.tick) ∧
    (s.i2c.ph = .idle → s.i2c.w = false → s.uart.ph ≠ .idle → step s = uartUnitStep s.tick)

/-- The opcode-table word put where the next step takes its instruction is run by that step (logs 9 and 12). -/
def Obligations.StepRunsTableWord : Prop :=
  ∀ (s : State) (nbits w : Nat) (i : Instr), configLegal s.cfg = true → decodeTableWord nbits w = some i →
    ∃ u : State, step (s.withFetchWord nbits w) = exec i u ∧
      u.i2c = { s.i2c with ph := .idle, w := false } ∧ u.uart = { s.uart with ph := .idle } ∧
      u.env.host = s.env.host ∧ u.cfg = s.cfg ∧ u.mem = s.mem

/-- Every well-formed instruction is accepted by units that are idle and initialised, and no ill-formed one ever is
(R70, R89, R94, R193). -/
def Obligations.WellFormedIsAccepted : Prop :=
  (∀ (s : State) (i : Instr), configLegal s.cfg = true → s.i2c.ph = .idle → s.uart.ph = .idle → s.i2c.inited = true →
    s.uart.inited = true → i.wf s.cfg = true → ∃ t, exec i s = .next t) ∧
  (∀ (s : State) (i : Instr), i.wf s.cfg = false → ∃ r, exec i s = .refused r)

/-! ### I2C commands -/

/-- `I2C.INIT` on an idle unit: one port event, the bit rate, two flags, nothing else (R140). -/
def Obligations.I2cInitWritesBitRate : Prop :=
  ∀ s : State, s.i2c.ph = .idle → clockLegal s.cfg = true → ∃ v : Byte,
    v.toNat = s.cfg.fCpu / (2 * 250000) - 8 ∧
    exec .i2cInit s = .next
      { s with
        tw := { s.tw with brr := v }
        i2c := { s.i2c with inited := true, done := true }
        i2cTrace := s.i2cTrace ++ [.wrBrr v] }

/-- The accept step of the two transaction commands: every operand latched, counter and result flags cleared, phase START;
`i2c.rdata` and everything else unchanged, no port event; the same from the fields of the word; a busy unit accepts no
command (R143). -/
def Obligations.TransactionAccepted : Prop :=
  (∀ (s : State) (device daddr : Byte) (address : Half) (value : Byte), s.i2c.ph = .idle → s.i2c.inited = true →
    exec (.i2cSendByte device daddr address value) s = .next
      { s with
        i2c := { s.i2c with
          op := 1#2, dev := device, daddr := daddr, addr := address, val := value, n := 0#3, ok := false, exh := false
          cause := .ok, done := false, w := false, ph := .start } } ∧
    exec (.i2cReadByte device daddr address value) s = .next
      { s with
        i2c := { s.i2c with
          op := 2#2, dev := device, daddr := daddr, addr := address, val := value, n := 0#3, ok := false, exh := false
          cause := .ok, done := false, w := false, ph := .start } }) ∧
  (∀ (s : State) (w : Word48), s.i2c.ph = .idle → s.i2c.inited = true → w.extractLsb' 42 6 = 0#6 →
    w.extractLsb' 40 2 = 1#2 ∨ w.extractLsb' 40 2 = 2#2 → ∃ i : Instr, decode (.command .i2c w) = .ok i ∧
    exec i s = .next
      { s with
        i2c := { s.i2c with
          op := w.extractLsb' 40 2, dev := w.extractLsb' 32 8, daddr := w.extractLsb' 24 8, addr := w.extractLsb' 8 16
          val := w.extractLsb' 0 8, n := 0#3, ok := false, exh := false, cause := .ok, done := false, w := false
          ph := .start } }) ∧
  (∀ (s : State) (w : Word48) (i : Instr), s.i2c.ph ≠ .idle → decode (.command .i2c w) = .ok i →
    ∃ r, exec i s = .refused r)

/-- What an I2C command refuses: a busy unit refuses every command, an idle one that is not initialised refuses a
transaction (R235, R265). -/
def Obligations.I2cCommandsRefused : Prop :=
  ∀ (s : State) (device daddr : Byte) (address : Half) (value : Byte),
    (s.i2c.ph ≠ .idle →
      exec .i2cInit s = .refused .unitBusy ∧
      exec (.i2cSendByte device daddr address value) s = .refused .unitBusy ∧
      exec (.i2cReadByte device daddr address value) s = .refused .unitBusy) ∧
    (s.i2c.ph = .idle → s.i2c.inited = false →
      exec (.i2cSendByte device daddr address value) s = .refused .notInitialised ∧
      exec (.i2cReadByte device daddr address value) s = .refused .notInitialised)

/-- The reserved opcode `0b11` is refused in every state (R94). -/
def Obligations.ReservedOpcodeStops : Prop := ∀ s : State, exec .i2cReservedOp3 s = .refused .reservedOpcode

/-! ### The bus-condition primitive -/

/-- The issue step of `COND.START` and `COND.DATA`: the code in `tw.cond`, `tw.cf` 0, the request in the trace, the wait bit
set; `tw.dr`, `tw.brr` and everything else of the block unchanged but the free status byte (R101, R103, R107; log 7). The engine's operation is the next answer of the script, and
replaces one still in progress: the model's form (logs 1 and 23). -/
def Obligations.WaitedConditionIssues : Prop :=
  ∀ (s : State) (b : Bool), s.i2c.w = false → ∃ t, exec (waitedInstr b) s = .next t ∧
    t.i2c = { s.i2c with w := true } ∧
    t.tw = { s.tw with cond := condCode (waitedOf b), cf := false, status := t.tw.status } ∧
    t.i2cTrace = s.i2cTrace ++ [.req (waitedOf b)] ∧
    t.env = { s.env with twCur := operationOf (waitedOf b) s.env.twScript, twScript := s.env.twScript.tail } ∧
    t.wire = s.wire ∧ SameUartSide s t

/-- The completion step of `COND.START` and `COND.DATA`: the result is the raw status with bits 2:0 forced to 0, the wait bit
is cleared, the answer is in the trace, nothing else changes (R104). -/
def Obligations.WaitedConditionCompletes : Prop :=
  ∀ (s : State) (b : Bool), s.i2c.w = true → s.tw.cf = true →
    exec (waitedInstr b) s = .next
      { s with
        i2c := { s.i2c with st := s.tw.status &&& 0xF8#8, w := false }
        i2cTrace := s.i2cTrace ++ [.done s.tw.status s.tw.dr] }

/-- While the awaited flag reads 0 nothing changes, in the primitive and in every waiting step of both units: the wait has
no bound and no other exit (R109, R196, R198, R228; log 14). -/
def Obligations.WaitingChangesNothing : Prop :=
  (∀ (s : State) (b : Bool), s.i2c.w = true → s.tw.cf = false → exec (waitedInstr b) s = .next s) ∧
  (∀ s : State, s.i2c.ph.waited = true → s.i2c.w = true → s.tw.cf = false → i2cUnitStep s = .next s) ∧
  (∀ s : State, s.uart.ph = .txw → s.ua.dre = false → uartUnitStep s = .next s) ∧
  (∀ s : State, s.uart.ph = .rxw → s.ua.rxc = false → uartUnitStep s = .next s)

/-- `COND.STOP`: one step, the request and the sentinel 0, no wait; `tw.cf` and `tw.status` are free afterwards (R105, R106;
log 7), the stop is in flight (R46; log 15), nothing else changes. -/
def Obligations.StopConditionDoesNotWait : Prop :=
  ∀ s : State, ∃ t, exec .condStop s = .next t ∧ t.i2c = { s.i2c with st := 0#8 } ∧
    t.tw = { s.tw with cond := 1#2, cf := t.tw.cf, status := t.tw.status } ∧
    t.i2cTrace = s.i2cTrace ++ [.req .stop] ∧
    t.env = { s.env with stopScript := s.env.stopScript.tail } ∧
    t.wire.isOpen = s.wire.isOpen ∧ t.wire.stop ≠ .none ∧ SameUartSide s t

/-- The condition code `0b11` under each `STAT_POLICY`: refused, or exactly as `COND.DATA` (R89, U1). -/
def Obligations.StatFollowsPolicy : Prop :=
  (∀ s : State, s.cfg.statPolicy = .refuse → exec .condStatReserved s = .refused .statReserved) ∧
  (∀ s : State, s.cfg.statPolicy = .asData → ∃ t, exec .condStatReserved s = .next t ∧ exec .condData s = .next t ∧
    (s.i2c.w = false → t.tw.cond = 2#2 ∧ t.i2c.w = true))

/-! ### The phases of a transaction -/

/-- What each waited phase loads and requests; the load comes first (R144, R145, R148). The engine's operation is the next
answer of the script, and replaces one still in progress: the model's form (logs 1 and 23). -/
def Obligations.PhasesLoadThenRequest : Prop :=
  ∀ s : State, s.i2c.w = false →
    (s.i2c.ph = .start → IssuesWith s none .start) ∧
    (s.i2c.ph = .slaw →
      IssuesWith s (some ((s.i2c.dev &&& 0xF0#8) ||| ((s.i2c.daddr &&& 0x07#8) <<< 1) ||| 0#8)) .data) ∧
    (s.i2c.ph = .addrHi → IssuesWith s (some (s.i2c.addr.extractLsb' 8 8)) .data) ∧
    (s.i2c.ph = .addrLo → IssuesWith s (some (s.i2c.addr.extractLsb' 0 8)) .data) ∧
    (s.i2c.ph = .wdata → IssuesWith s (some s.i2c.val) .data) ∧
    (s.i2c.ph = .rstart → IssuesWith s none .start) ∧
    (s.i2c.ph = .slar →
      IssuesWith s (some ((s.i2c.dev &&& 0xF0#8) ||| ((s.i2c.daddr &&& 0x07#8) <<< 1) ||| 1#8)) .data) ∧
    (s.i2c.ph = .rdata → IssuesWith s none .data)

/-- The layout of the device address byte: bits 7:4 from the device identifier, bits 3:1 from the modifier, bit 0 the
direction; the read byte is the write byte with bit 0 set (R90, R144). -/
def Obligations.AddressByteLayout : Prop :=
  ∀ dev daddr : Byte,
    (slaw dev daddr).extractLsb' 4 4 = dev.extractLsb' 4 4 ∧ (slaw dev daddr).extractLsb' 1 3 = daddr.extractLsb' 0 3 ∧
    (slaw dev daddr).getLsbD 0 = false ∧
    (slar dev daddr).extractLsb' 4 4 = dev.extractLsb' 4 4 ∧ (slar dev daddr).extractLsb' 1 3 = daddr.extractLsb' 0 3 ∧
    (slar dev daddr).getLsbD 0 = true ∧ slar dev daddr = slaw dev daddr ||| 1#8

/-- The bytes sent for the sub-address put together again are the sub-address, high byte first (R66). -/
def Obligations.SubAddressSplit : Prop :=
  ∀ addr : Half, (addrHigh addr).toNat * 256 + (addrLow addr).toNat = addr.toNat

/-- Outcome CONTINUE: the next phase of the table, no other register changes but the status latch and the wait bit (R147). -/
def Obligations.ContinueAdvancesPhase : Prop :=
  ∀ s : State, Completing s → outcomeNow s = .continue_ → s.i2c.op = 1#2 ∨ s.i2c.op = 2#2 → ∃ q : Phase,
    i2cUnitStep s = .next (completedAs s { latched s with ph := q }) ∧
    (s.i2c.ph = .start → q = .slaw) ∧ (s.i2c.ph = .slaw → q = .addrHi) ∧ (s.i2c.ph = .addrHi → q = .addrLo) ∧
    (s.i2c.ph = .addrLo → s.i2c.op = 1#2 → q = .wdata) ∧ (s.i2c.ph = .addrLo → s.i2c.op = 2#2 → q = .rstart) ∧
    (s.i2c.ph = .rstart → q = .slar) ∧ (s.i2c.ph = .slar → q = .rdata) ∧
    s.i2c.ph ≠ .wdata ∧ s.i2c.ph ≠ .rdata

/-- Outcome RETRY below the bound: the cause, the counter one higher, phase START; nothing is sent (R160). -/
def Obligations.RetryRestartsAttempt : Prop :=
  ∀ s : State, Completing s → s.i2c.n < 5#3 →
    (outcomeNow s = .raise .arbLost →
      i2cUnitStep s = .next (completedAs s { latched s with cause := .arbLost, n := s.i2c.n + 1#3, ph := .start })) ∧
    (outcomeNow s = .raise .addrNack →
      i2cUnitStep s = .next (completedAs s { latched s with cause := .addrNack, n := s.i2c.n + 1#3, ph := .start })) ∧
    (s.i2c.n + 1#3).toNat = s.i2c.n.toNat + 1

/-- Outcome RETRY on the last attempt is exhaustion: completion without any STOP request, or phase STOP under
`STOP_ON_EXHAUSTION` (R161, R168). Without STOP nothing else changes but `wire.open`, which U11 leaves any value, and the
list that holds this value, the model's form of U11 (log 25); after an address NACK a bus for which the list holds no other
value is left as it is. -/
def Obligations.ExhaustionSkipsStop : Prop :=
  ∀ (s : State) (c : Cause), Completing s → s.i2c.n = 5#3 →
    (outcomeNow s = .raise .arbLost ∧ c = .arbLost) ∨ (outcomeNow s = .raise .addrNack ∧ c = .addrNack) →
    (s.cfg.stopOnExhaustion = false →
      ∃ t, i2cUnitStep s = .next t ∧
        t = { completedAs s { latched s with cause := c, exh := true, done := true, ph := .idle } with
          wire := { s.wire with isOpen := t.wire.isOpen }
          env := { s.env with openScript := t.env.openScript } } ∧
        (c = .addrNack → s.env.openScript = [] → t.wire = s.wire)) ∧
    (s.cfg.stopOnExhaustion = true →
      i2cUnitStep s = .next (completedAs s { latched s with cause := c, exh := true, ph := .stop }))

/-- Outcome ABORT: cause PROTOCOL, phase STOP, everything else unchanged; and the step after it requests STOP and completes
the command (R162). -/
def Obligations.AbortIssuesStop : Prop :=
  ∀ s : State, Completing s → outcomeNow s = .raise .protocol → ∃ t u : State,
    t = completedAs s { latched s with cause := .protocol, ph := .stop } ∧ i2cUnitStep s = .next t ∧
    i2cUnitStep t = .next u ∧ u.i2cTrace = t.i2cTrace ++ [.req .stop] ∧
    u.i2c = { t.i2c with st := 0#8, done := true, ph := .idle }

/-- Phase STOP: one step, the request, the sentinel in the latch, completion, phase IDLE, nothing else of the unit (R159);
`tw.cf` and `tw.status` are free afterwards (log 7), the stop is in flight (log 15). -/
def Obligations.StopPhaseCompletesCommand : Prop :=
  ∀ s : State, s.i2c.ph = .stop → ∃ t, i2cUnitStep s = .next t ∧
    t.i2c = { s.i2c with st := 0#8, done := true, ph := .idle } ∧ t.i2cTrace = s.i2cTrace ++ [.req .stop] ∧
    t.tw = { s.tw with cond := 1#2, cf := t.tw.cf, status := t.tw.status } ∧
    t.env = { s.env with stopScript := s.env.stopScript.tail } ∧ t.wire.isOpen = s.wire.isOpen ∧ SameUartSide s t

/-- Phase WDATA: the issue step loads the value byte and requests DATA; data ACK is success, anything else aborts, whatever
the counter is (R155). The engine's operation is the model's form, as in `PhasesLoadThenRequest` (logs 1 and 23). -/
def Obligations.ValuePhaseOutcome : Prop :=
  (∀ s : State, s.i2c.ph = .wdata → s.i2c.w = false → IssuesWith s (some s.i2c.val) .data) ∧
  ∀ s : State, Completing s → s.i2c.ph = .wdata →
    (maskStatus s.tw.status = s.cfg.codes.mtDataAck →
      i2cUnitStep s = .next (completedAs s { latched s with ok := true, cause := .ok, ph := .stop })) ∧
    (maskStatus s.tw.status ≠ s.cfg.codes.mtDataAck →
      i2cUnitStep s = .next (completedAs s { latched s with cause := .protocol, ph := .stop }))

/-- Phase RDATA: the issue step requests DATA with no load; on the read-NACK status the received byte goes to the output slot
and the command succeeds; on anything else it aborts and the slot keeps its content (R158). The engine's operation is
the model's form, as in `PhasesLoadThenRequest` (logs 1 and 23). -/
def Obligations.ReceivePhaseOutcome : Prop :=
  (∀ s : State, s.i2c.ph = .rdata → s.i2c.w = false → IssuesWith s none .data) ∧
  ∀ s : State, Completing s → s.i2c.ph = .rdata →
    (maskStatus s.tw.status = s.cfg.codes.mrDataNack →
      i2cUnitStep s = .next
        (completedAs s { latched s with rdata := s.tw.dr, ok := true, cause := .ok, ph := .stop })) ∧
    (maskStatus s.tw.status ≠ s.cfg.codes.mrDataNack →
      i2cUnitStep s = .next (completedAs s { latched s with cause := .protocol, ph := .stop }))

/-- The status decoder aborts exactly on the statuses a phase neither expects nor retries on (R123). -/
def Obligations.DecoderAbortsOnUnlisted : Prop :=
  ∀ (k : StatusCodes) (p : Phase) (st : Byte), decodeStatus k p st = .raise .protocol ↔ st ∉ listedStatuses k p

/-- Arbitration loss is retried in START, SLAW, RSTART and SLAR only, an address NACK in SLAW and SLAR only; the two final
phases alone succeed (R124 to R129, R131), for every legal set of codes. -/
def Obligations.RetryablePhases : Prop :=
  ∀ (k : StatusCodes) (p : Phase) (st : Byte), codesLegal k = true →
    (decodeStatus k p st = .raise .arbLost ↔
      st = k.arbLost ∧ (p = .start ∨ p = .slaw ∨ p = .rstart ∨ p = .slar)) ∧
    (decodeStatus k p st = .raise .addrNack ↔
      (p = .slaw ∧ st = k.mtSlaNack) ∨ (p = .slar ∧ st = k.mrSlaNack)) ∧
    (decodeStatus k p st = .success ↔ (p = .wdata ∧ st = k.mtDataAck) ∨ (p = .rdata ∧ st = k.mrDataNack))

/-- The low three bits of the raw status influence no register of the unit (R120). -/
def Obligations.LowStatusBitsIgnored : Prop :=
  ∀ (s t : State) (raw : Byte), raw &&& 0xF8#8 = s.tw.status &&& 0xF8#8 → i2cUnitStep s = .next t →
    ∃ u, i2cUnitStep { s with tw := { s.tw with status := raw } } = .next u ∧ u.i2c = t.i2c ∧
      driven u.i2cTrace = driven t.i2cTrace

/-! ### Bounds and whole transactions -/

/-- A step of the I2C unit never adds more requests than the command's budget loses; a write starts with 16, a read with 38
(R71, R167). -/
def Obligations.RequestsStayInBudget : Prop :=
  (∀ s t : State, Inv s → i2cUnitStep s = .next t →
    requests t.i2cTrace + requestBudget t.i2c ≤ requests s.i2cTrace + requestBudget s.i2c) ∧
  (∀ (u : I2cUnit) (dev daddr : Byte) (addr : Half) (v : Byte),
    requestBudget (acceptedI2c u 1#2 dev daddr addr v) = 16 ∧ requestBudget (acceptedI2c u 2#2 dev daddr addr v) = 38)

/-- A command whose requests are all answered at once completes within two steps for each request of its budget (R167): the
loop has no other way to hang. -/
def Obligations.AnsweredCommandCompletes : Prop :=
  ∀ s : State, Inv s → configLegal s.cfg = true → s.i2c.ph ≠ .idle → s.i2c.w = false → s.env.rst = [] →
    (∀ a ∈ s.env.twScript, a.delay = some 0) → requestBudget s.i2c ≤ s.env.twScript.length →
    ∃ (k : Nat) (t : State), k ≤ 2 * requestBudget s.i2c ∧ runFor k s = .next t ∧ t.i2c.ph = .idle ∧ t.i2c.done = true

/-- An accepted write on a bus that acknowledges every phase at once: eleven steps later it has succeeded, and the bus
observed one start, the address byte, the two sub-address bytes, the value and one stop (R163, vector T1). -/
def Obligations.AcknowledgedWriteSucceeds : Prop :=
  ∀ (s : State) (a0 a1 a2 a3 a4 : Answer) (rest : List Answer), configLegal s.cfg = true → s.env.rst = [] →
    s.i2c.ph = .start → s.i2c.w = false → s.i2c.op = 1#2 → s.env.twScript = a0 :: a1 :: a2 :: a3 :: a4 :: rest →
    answersAtOnce a0 s.cfg.codes.start ∨ answersAtOnce a0 s.cfg.codes.repStart →
    answersAtOnce a1 s.cfg.codes.mtSlaAck → answersAtOnce a2 s.cfg.codes.mtDataAck →
    answersAtOnce a3 s.cfg.codes.mtDataAck → answersAtOnce a4 s.cfg.codes.mtDataAck →
    ∃ t, runFor 11 s = .next t ∧
      t.i2c = { s.i2c with st := 0#8, ok := true, cause := .ok, done := true, ph := .idle } ∧
      driven t.i2cTrace = driven s.i2cTrace ++
        [.req .start, .wrDr (slaw s.i2c.dev s.i2c.daddr), .req .data, .wrDr (addrHigh s.i2c.addr), .req .data,
         .wrDr (addrLow s.i2c.addr), .req .data, .wrDr s.i2c.val, .req .data, .req .stop]

/-- An accepted read on a bus that acknowledges every phase at once and returns the byte `k`: fifteen steps later it has
succeeded with that byte, after a write of the sub-address, a repeated start and the read address byte (R164, T2). -/
def Obligations.AcknowledgedReadSucceeds : Prop :=
  ∀ (s : State) (a0 a1 a2 a3 a4 a5 a6 : Answer) (rest : List Answer) (k : Byte), configLegal s.cfg = true →
    s.env.rst = [] → s.i2c.ph = .start → s.i2c.w = false → s.i2c.op = 2#2 →
    s.env.twScript = a0 :: a1 :: a2 :: a3 :: a4 :: a5 :: a6 :: rest →
    answersAtOnce a0 s.cfg.codes.start ∨ answersAtOnce a0 s.cfg.codes.repStart →
    answersAtOnce a1 s.cfg.codes.mtSlaAck → answersAtOnce a2 s.cfg.codes.mtDataAck →
    answersAtOnce a3 s.cfg.codes.mtDataAck →
    answersAtOnce a4 s.cfg.codes.start ∨ answersAtOnce a4 s.cfg.codes.repStart →
    answersAtOnce a5 s.cfg.codes.mrSlaAck → answersAtOnce a6 s.cfg.codes.mrDataNack → a6.dr = some k →
    ∃ t, runFor 15 s = .next t ∧
      t.i2c = { s.i2c with st := 0#8, rdata := k, ok := true, cause := .ok, done := true, ph := .idle } ∧
      driven t.i2cTrace = driven s.i2cTrace ++
        [.req .start, .wrDr (slaw s.i2c.dev s.i2c.daddr), .req .data, .wrDr (addrHigh s.i2c.addr), .req .data,
         .wrDr (addrLow s.i2c.addr), .req .data, .req .start, .wrDr (slar s.i2c.dev s.i2c.daddr), .req .data,
         .req .data, .req .stop]

/-- Arbitration lost on the first START of every attempt: six attempts, then exhaustion without a stop (R161, R165, T3). -/
def Obligations.SixLostArbitrationsExhaust : Prop :=
  ∀ (s : State) (a0 a1 a2 a3 a4 a5 : Answer) (rest : List Answer), configLegal s.cfg = true → s.env.rst = [] →
    s.cfg.stopOnExhaustion = false → s.i2c.ph = .start → s.i2c.w = false → s.i2c.n = 0#3 →
    s.env.twScript = a0 :: a1 :: a2 :: a3 :: a4 :: a5 :: rest →
    (∀ a ∈ [a0, a1, a2, a3, a4, a5], answersAtOnce a s.cfg.codes.arbLost) →
    ∃ t, runFor 12 s = .next t ∧
      t.i2c = { s.i2c with
        st := s.cfg.codes.arbLost, n := 5#3, exh := true, cause := .arbLost, done := true, ph := .idle } ∧
      driven t.i2cTrace = driven s.i2cTrace ++ List.replicate 6 (.req .start)

/-! ### UART -/

/-- `UART.INIT` on an idle unit with a legal baud: the divisor in two halves, both enables, the format (0 means the default),
in this order, the two flags and the latched operands, nothing else (R192). -/
def Obligations.UartInitProgramsEngine : Prop :=
  ∀ (s : State) (baud : BitVec 32) (fmt : Byte), s.uart.ph = .idle → baudLegal s.cfg baud = true → ∃ d : Half, ∃ f : Byte,
    d.toNat = s.cfg.fCpu / (16 * baud.toNat) - 1 ∧ f = (if fmt = 0#8 then s.cfg.fmt8n1 else fmt) ∧
    exec (.uartInit baud fmt) s = .next
      { s with
        ua := { s.ua with brrh := d.extractLsb' 8 8, brrl := d.extractLsb' 0 8, en := 3#2, fmt := f }
        uart := { s.uart with op := 0#2, baud := baud, fmt := fmt, inited := true, done := true }
        uartTrace := s.uartTrace ++
          [.wrBrrh (d.extractLsb' 8 8), .wrBrrl (d.extractLsb' 0 8), .wrEn 3#2, .wrFmt f] }

/-- The baud rates an idle unit accepts, and the divisor loses nothing in 16 bits; every other baud is refused (R193). -/
def Obligations.BaudRange : Prop :=
  ∀ (s : State) (baud : BitVec 32) (fmt : Byte), s.uart.ph = .idle →
    ((baud ≠ 0#32 ∧ 1 ≤ s.cfg.fCpu / (16 * baud.toNat) ∧ s.cfg.fCpu / (16 * baud.toNat) ≤ 65536) →
      (baudDivisor s.cfg baud).toNat + 1 = s.cfg.fCpu / (16 * baud.toNat) ∧ ∃ t, exec (.uartInit baud fmt) s = .next t) ∧
    (¬ (baud ≠ 0#32 ∧ 1 ≤ s.cfg.fCpu / (16 * baud.toNat) ∧ s.cfg.fCpu / (16 * baud.toNat) ≤ 65536) →
      exec (.uartInit baud fmt) s = .refused .baudOutOfRange)

/-- The accept step of `UART.TX_BYTE` (R191, R194). -/
def Obligations.TxByteAccepted : Prop :=
  ∀ (s : State) (byte : Byte), s.uart.ph = .idle → s.uart.inited = true →
    exec (.uartTxByte byte) s = .next
      { s with
        uart := { s.uart with op := 1#2, done := false, byte := byte, len := 1#16, idx := 0#16, ph := .txw } }

/-- The accept step of `UART.TX_BUFFER`: an empty buffer completes at once with no port event (R191, R195). -/
def Obligations.TxBufferAccepted : Prop :=
  ∀ (s : State) (base len : Half), s.uart.ph = .idle → s.uart.inited = true → base.toNat + len.toNat ≤ 65536 →
    (len = 0#16 → exec (.uartTxBuffer base len) s = .next
      { s with uart := { s.uart with op := 2#2, done := true, bufp := base, len := len, idx := 0#16 } }) ∧
    (len ≠ 0#16 → exec (.uartTxBuffer base len) s = .next
      { s with uart := { s.uart with op := 2#2, done := false, bufp := base, len := len, idx := 0#16, ph := .txw } })

/-- The accept step of `UART.RX_BYTE` (R191, R197). -/
def Obligations.RxByteAccepted : Prop :=
  ∀ s : State, s.uart.ph = .idle → s.uart.inited = true →
    exec .uartRxByte s = .next { s with uart := { s.uart with op := 3#2, done := false, ph := .rxw } }

/-- What a UART command refuses: a busy unit every command, an idle one that is not initialised every transfer, an
initialised one a buffer past the top of the buffer space (R70, R191, R235, R266). -/
def Obligations.UartCommandsRefused : Prop :=
  ∀ (s : State) (baud : BitVec 32) (fmt byte : Byte) (base len : Half),
    (s.uart.ph ≠ .idle →
      exec (.uartInit baud fmt) s = .refused .unitBusy ∧ exec (.uartTxByte byte) s = .refused .unitBusy ∧
      exec (.uartTxBuffer base len) s = .refused .unitBusy ∧ exec .uartRxByte s = .refused .unitBusy) ∧
    (s.uart.ph = .idle → s.uart.inited = false →
      exec (.uartTxByte byte) s = .refused .notInitialised ∧
      exec (.uartTxBuffer base len) s = .refused .notInitialised ∧ exec .uartRxByte s = .refused .notInitialised) ∧
    (s.uart.ph = .idle → s.uart.inited = true → 65536 < base.toNat + len.toNat →
      exec (.uartTxBuffer base len) s = .refused .bufferOutOfRange)

/-- The TXW step when the engine is ready: the byte goes to `ua.tdr`, the index advances, the last byte completes the command
(R196). After the write `ua.dre` reads 0 until the next sample (the model's choice, log 8), so nothing is stated of it. -/
def Obligations.TransmitStepSendsNextByte : Prop :=
  ∀ s : State, UartInv s.uart → s.uart.ph = .txw → s.ua.dre = true → ∃ (t : State) (b : Byte),
    uartUnitStep s = .next t ∧ (s.uart.op = 1#2 → b = s.uart.byte) ∧
    (s.uart.op ≠ 1#2 → b = memGet s.mem (s.uart.bufp.toNat + s.uart.idx.toNat)) ∧
    t.ua = { s.ua with tdr := b, dre := t.ua.dre } ∧ t.uartTrace = s.uartTrace ++ [.wrTdr b] ∧
    (s.uart.idx.toNat + 1 = s.uart.len.toNat →
      t.uart = { s.uart with idx := s.uart.idx + 1#16, done := true, ph := .idle }) ∧
    (s.uart.idx.toNat + 1 ≠ s.uart.len.toNat → t.uart = { s.uart with idx := s.uart.idx + 1#16 }) ∧
    t.env = s.env ∧ SameI2cSide s t

/-- The RXW step when a byte is there: the byte goes to `u.rx`, the read is in the trace, the command completes (R198). The
byte is consumed: `ua.rxc` reads 0 until the next sample (the model's reading of R42(c), log 8), not stated here. -/
def Obligations.ReceiveStepTakesByte : Prop :=
  ∀ s : State, s.uart.ph = .rxw → s.ua.rxc = true → ∃ t,
    uartUnitStep s = .next t ∧ t.uart = { s.uart with rx := s.ua.rdr, done := true, ph := .idle } ∧
    t.ua = { s.ua with rxc := t.ua.rxc } ∧ t.uartTrace = s.uartTrace ++ [.rdRdr s.ua.rdr] ∧ t.env = s.env ∧
    SameI2cSide s t

/-- An accepted buffer transmit, whatever the engine's flags do: after any number of steps what was sent is the first bytes of
the buffer in ascending address order, all of them once the command has completed; each byte is sent by a step that sees
`ua.dre = 1` (R196, R201). An engine that is ready at each poll lets the command complete in one step a byte, which rests on
the model's form of the engine: a script of samples (log 1), one taken at each step of a busy unit (log 8). -/
def Obligations.BufferSentInOrder : Prop :=
  (∀ (s t : State) (k : Nat), configLegal s.cfg = true → s.env.rst = [] → s.env.host = [] → s.env.primCalls = [] →
    s.i2c.ph = .idle → s.i2c.w = false → s.uart.ph = .txw → s.uart.op = 2#2 → s.uart.idx = 0#16 → s.uart.len ≠ 0#16 →
    s.uart.bufp.toNat + s.uart.len.toNat ≤ 65536 → runFor k s = .next t →
    t.uart.idx.toNat ≤ s.uart.len.toNat ∧ (t.uart.ph = .txw ∨ t.uart.ph = .idle) ∧
    (t.uart.ph = .idle → t.uart.idx = s.uart.len ∧ t.uart.done = true) ∧
    t.uartTrace = s.uartTrace ++
      (List.range t.uart.idx.toNat).map fun j => .wrTdr (memGet s.mem (s.uart.bufp.toNat + j))) ∧
  (∀ s t : State, uartUnitStep s = .next t → s.uart.ph = .txw → t.uartTrace ≠ s.uartTrace → s.ua.dre = true) ∧
  (∀ s : State, configLegal s.cfg = true → s.env.rst = [] → s.i2c.ph = .idle → s.i2c.w = false → s.uart.ph = .txw →
    s.uart.op = 2#2 → s.uart.idx = 0#16 → s.uart.len ≠ 0#16 → s.uart.bufp.toNat + s.uart.len.toNat ≤ 65536 →
    s.uart.len.toNat ≤ s.env.uaScript.length → (∀ x ∈ s.env.uaScript.take s.uart.len.toNat, x.dre = true) →
    ∃ t, runFor s.uart.len.toNat s = .next t ∧ t.uart.ph = .idle ∧ t.uart.done = true ∧ t.uart.idx = s.uart.len ∧
      t.uartTrace = s.uartTrace ++
        (List.range s.uart.len.toNat).map fun j => .wrTdr (memGet s.mem (s.uart.bufp.toNat + j)))
end

