-- ==== Sys2Proof/Laws/Operands.lean ====
section
/-! SUPPORT. What the operand conditions say as propositions, for proofs that need no unfolding. -/

namespace Sys2Proof.Machine

/-- R70 as a proposition. -/
theorem bufferFits_iff (base len : Half) : bufferFits base len = true ↔ base.toNat + len.toNat ≤ 65536 := by
  simp only [bufferFits, decide_eq_true_eq]
  rfl

/-- R193 as a proposition. -/
theorem baudLegal_iff (c : Config) (baud : BitVec 32) :
    baudLegal c baud = true ↔
      baud ≠ 0#32 ∧ 1 ≤ c.fCpu / (16 * baud.toNat) ∧ c.fCpu / (16 * baud.toNat) ≤ 65536 := by
  simp only [baudLegal, Bool.and_eq_true, decide_eq_true_eq, and_assoc]
  rfl

/-- R141 as a proposition: the quotient less 8 is a byte. -/
theorem clockLegal_iff (c : Config) :
    clockLegal c = true ↔ 8 ≤ c.fCpu / 500000 ∧ c.fCpu / 500000 ≤ 263 := by
  simp only [clockLegal, Bool.and_eq_true, decide_eq_true_eq]
  show 8 ≤ c.fCpu / 500000 ∧ c.fCpu / 500000 - 8 ≤ 255 ↔ _
  omega

/-- A legal configuration has a legal clock. -/
theorem clockLegal_of_configLegal {c : Config} (h : configLegal c = true) : clockLegal c = true := by
  simp only [configLegal, Bool.and_eq_true] at h
  exact h.1.1

end Sys2Proof.Machine
end

