-- ==== Sys2Proof/Laws/State.lean ====
section
/-! SUPPORT. One lemma per field of the state per update, true by definition: no later proof unfolds a record update. -/

namespace Sys2Proof.Machine

section Updates

variable (s : State)

@[simp] theorem fillBuffer_cfg (a : Half) (b : Byte) : (s.fillBuffer a b).cfg = s.cfg := rfl
@[simp] theorem fillBuffer_i2c (a : Half) (b : Byte) : (s.fillBuffer a b).i2c = s.i2c := rfl
@[simp] theorem fillBuffer_tw (a : Half) (b : Byte) : (s.fillBuffer a b).tw = s.tw := rfl
@[simp] theorem fillBuffer_uart (a : Half) (b : Byte) : (s.fillBuffer a b).uart = s.uart := rfl
@[simp] theorem fillBuffer_ua (a : Half) (b : Byte) : (s.fillBuffer a b).ua = s.ua := rfl
@[simp] theorem fillBuffer_wire (a : Half) (b : Byte) : (s.fillBuffer a b).wire = s.wire := rfl
@[simp] theorem fillBuffer_env (a : Half) (b : Byte) : (s.fillBuffer a b).env = s.env := rfl
@[simp] theorem fillBuffer_mem (a : Half) (b : Byte) : (s.fillBuffer a b).mem = memSet s.mem a.toNat b := rfl
@[simp] theorem fillBuffer_i2cTrace (a : Half) (b : Byte) : (s.fillBuffer a b).i2cTrace = s.i2cTrace := rfl
@[simp] theorem fillBuffer_uartTrace (a : Half) (b : Byte) : (s.fillBuffer a b).uartTrace = s.uartTrace := rfl
@[simp] theorem fillBuffer_free (a : Half) (b : Byte) : (s.fillBuffer a b).free = s.free := rfl

@[simp] theorem engWriteBrr_cfg (v : Byte) : (s.engWriteBrr v).cfg = s.cfg := rfl
@[simp] theorem engWriteBrr_i2c (v : Byte) : (s.engWriteBrr v).i2c = s.i2c := rfl
@[simp] theorem engWriteBrr_tw (v : Byte) : (s.engWriteBrr v).tw = { s.tw with brr := v } := rfl
@[simp] theorem engWriteBrr_uart (v : Byte) : (s.engWriteBrr v).uart = s.uart := rfl
@[simp] theorem engWriteBrr_ua (v : Byte) : (s.engWriteBrr v).ua = s.ua := rfl
@[simp] theorem engWriteBrr_wire (v : Byte) : (s.engWriteBrr v).wire = s.wire := rfl
@[simp] theorem engWriteBrr_env (v : Byte) : (s.engWriteBrr v).env = s.env := rfl
@[simp] theorem engWriteBrr_mem (v : Byte) : (s.engWriteBrr v).mem = s.mem := rfl
@[simp] theorem engWriteBrr_i2cTrace (v : Byte) : (s.engWriteBrr v).i2cTrace = s.i2cTrace ++ [.wrBrr v] := rfl
@[simp] theorem engWriteBrr_uartTrace (v : Byte) : (s.engWriteBrr v).uartTrace = s.uartTrace := rfl
@[simp] theorem engWriteBrr_free (v : Byte) : (s.engWriteBrr v).free = s.free := rfl

@[simp] theorem engWriteDr_cfg (v : Byte) : (s.engWriteDr v).cfg = s.cfg := rfl
@[simp] theorem engWriteDr_i2c (v : Byte) : (s.engWriteDr v).i2c = s.i2c := rfl
@[simp] theorem engWriteDr_tw (v : Byte) : (s.engWriteDr v).tw = { s.tw with dr := v } := rfl
@[simp] theorem engWriteDr_uart (v : Byte) : (s.engWriteDr v).uart = s.uart := rfl
@[simp] theorem engWriteDr_ua (v : Byte) : (s.engWriteDr v).ua = s.ua := rfl
@[simp] theorem engWriteDr_wire (v : Byte) : (s.engWriteDr v).wire = s.wire := rfl
@[simp] theorem engWriteDr_env (v : Byte) : (s.engWriteDr v).env = s.env := rfl
@[simp] theorem engWriteDr_mem (v : Byte) : (s.engWriteDr v).mem = s.mem := rfl
@[simp] theorem engWriteDr_i2cTrace (v : Byte) : (s.engWriteDr v).i2cTrace = s.i2cTrace ++ [.wrDr v] := rfl
@[simp] theorem engWriteDr_uartTrace (v : Byte) : (s.engWriteDr v).uartTrace = s.uartTrace := rfl
@[simp] theorem engWriteDr_free (v : Byte) : (s.engWriteDr v).free = s.free := rfl

@[simp] theorem engWriteBrrh_cfg (v : Byte) : (s.engWriteBrrh v).cfg = s.cfg := rfl
@[simp] theorem engWriteBrrh_i2c (v : Byte) : (s.engWriteBrrh v).i2c = s.i2c := rfl
@[simp] theorem engWriteBrrh_tw (v : Byte) : (s.engWriteBrrh v).tw = s.tw := rfl
@[simp] theorem engWriteBrrh_uart (v : Byte) : (s.engWriteBrrh v).uart = s.uart := rfl
@[simp] theorem engWriteBrrh_ua (v : Byte) : (s.engWriteBrrh v).ua = { s.ua with brrh := v } := rfl
@[simp] theorem engWriteBrrh_wire (v : Byte) : (s.engWriteBrrh v).wire = s.wire := rfl
@[simp] theorem engWriteBrrh_env (v : Byte) : (s.engWriteBrrh v).env = s.env := rfl
@[simp] theorem engWriteBrrh_mem (v : Byte) : (s.engWriteBrrh v).mem = s.mem := rfl
@[simp] theorem engWriteBrrh_i2cTrace (v : Byte) : (s.engWriteBrrh v).i2cTrace = s.i2cTrace := rfl
@[simp] theorem engWriteBrrh_uartTrace (v : Byte) : (s.engWriteBrrh v).uartTrace = s.uartTrace ++ [.wrBrrh v] := rfl
@[simp] theorem engWriteBrrh_free (v : Byte) : (s.engWriteBrrh v).free = s.free := rfl

@[simp] theorem engWriteBrrl_cfg (v : Byte) : (s.engWriteBrrl v).cfg = s.cfg := rfl
@[simp] theorem engWriteBrrl_i2c (v : Byte) : (s.engWriteBrrl v).i2c = s.i2c := rfl
@[simp] theorem engWriteBrrl_tw (v : Byte) : (s.engWriteBrrl v).tw = s.tw := rfl
@[simp] theorem engWriteBrrl_uart (v : Byte) : (s.engWriteBrrl v).uart = s.uart := rfl
@[simp] theorem engWriteBrrl_ua (v : Byte) : (s.engWriteBrrl v).ua = { s.ua with brrl := v } := rfl
@[simp] theorem engWriteBrrl_wire (v : Byte) : (s.engWriteBrrl v).wire = s.wire := rfl
@[simp] theorem engWriteBrrl_env (v : Byte) : (s.engWriteBrrl v).env = s.env := rfl
@[simp] theorem engWriteBrrl_mem (v : Byte) : (s.engWriteBrrl v).mem = s.mem := rfl
@[simp] theorem engWriteBrrl_i2cTrace (v : Byte) : (s.engWriteBrrl v).i2cTrace = s.i2cTrace := rfl
@[simp] theorem engWriteBrrl_uartTrace (v : Byte) : (s.engWriteBrrl v).uartTrace = s.uartTrace ++ [.wrBrrl v] := rfl
@[simp] theorem engWriteBrrl_free (v : Byte) : (s.engWriteBrrl v).free = s.free := rfl

@[simp] theorem engWriteEn_cfg (v : BitVec 2) : (s.engWriteEn v).cfg = s.cfg := rfl
@[simp] theorem engWriteEn_i2c (v : BitVec 2) : (s.engWriteEn v).i2c = s.i2c := rfl
@[simp] theorem engWriteEn_tw (v : BitVec 2) : (s.engWriteEn v).tw = s.tw := rfl
@[simp] theorem engWriteEn_uart (v : BitVec 2) : (s.engWriteEn v).uart = s.uart := rfl
@[simp] theorem engWriteEn_ua (v : BitVec 2) : (s.engWriteEn v).ua = { s.ua with en := v } := rfl
@[simp] theorem engWriteEn_wire (v : BitVec 2) : (s.engWriteEn v).wire = s.wire := rfl
@[simp] theorem engWriteEn_env (v : BitVec 2) : (s.engWriteEn v).env = s.env := rfl
@[simp] theorem engWriteEn_mem (v : BitVec 2) : (s.engWriteEn v).mem = s.mem := rfl
@[simp] theorem engWriteEn_i2cTrace (v : BitVec 2) : (s.engWriteEn v).i2cTrace = s.i2cTrace := rfl
@[simp] theorem engWriteEn_uartTrace (v : BitVec 2) : (s.engWriteEn v).uartTrace = s.uartTrace ++ [.wrEn v] := rfl
@[simp] theorem engWriteEn_free (v : BitVec 2) : (s.engWriteEn v).free = s.free := rfl

@[simp] theorem engWriteFmt_cfg (v : Byte) : (s.engWriteFmt v).cfg = s.cfg := rfl
@[simp] theorem engWriteFmt_i2c (v : Byte) : (s.engWriteFmt v).i2c = s.i2c := rfl
@[simp] theorem engWriteFmt_tw (v : Byte) : (s.engWriteFmt v).tw = s.tw := rfl
@[simp] theorem engWriteFmt_uart (v : Byte) : (s.engWriteFmt v).uart = s.uart := rfl
@[simp] theorem engWriteFmt_ua (v : Byte) : (s.engWriteFmt v).ua = { s.ua with fmt := v } := rfl
@[simp] theorem engWriteFmt_wire (v : Byte) : (s.engWriteFmt v).wire = s.wire := rfl
@[simp] theorem engWriteFmt_env (v : Byte) : (s.engWriteFmt v).env = s.env := rfl
@[simp] theorem engWriteFmt_mem (v : Byte) : (s.engWriteFmt v).mem = s.mem := rfl
@[simp] theorem engWriteFmt_i2cTrace (v : Byte) : (s.engWriteFmt v).i2cTrace = s.i2cTrace := rfl
@[simp] theorem engWriteFmt_uartTrace (v : Byte) : (s.engWriteFmt v).uartTrace = s.uartTrace ++ [.wrFmt v] := rfl
@[simp] theorem engWriteFmt_free (v : Byte) : (s.engWriteFmt v).free = s.free := rfl

@[simp] theorem engWriteTdr_cfg (v : Byte) : (s.engWriteTdr v).cfg = s.cfg := rfl
@[simp] theorem engWriteTdr_i2c (v : Byte) : (s.engWriteTdr v).i2c = s.i2c := rfl
@[simp] theorem engWriteTdr_tw (v : Byte) : (s.engWriteTdr v).tw = s.tw := rfl
@[simp] theorem engWriteTdr_uart (v : Byte) : (s.engWriteTdr v).uart = s.uart := rfl
@[simp] theorem engWriteTdr_ua (v : Byte) : (s.engWriteTdr v).ua = { s.ua with tdr := v, dre := false } := rfl
@[simp] theorem engWriteTdr_wire (v : Byte) : (s.engWriteTdr v).wire = s.wire := rfl
@[simp] theorem engWriteTdr_env (v : Byte) : (s.engWriteTdr v).env = s.env := rfl
@[simp] theorem engWriteTdr_mem (v : Byte) : (s.engWriteTdr v).mem = s.mem := rfl
@[simp] theorem engWriteTdr_i2cTrace (v : Byte) : (s.engWriteTdr v).i2cTrace = s.i2cTrace := rfl
@[simp] theorem engWriteTdr_uartTrace (v : Byte) : (s.engWriteTdr v).uartTrace = s.uartTrace ++ [.wrTdr v] := rfl
@[simp] theorem engWriteTdr_free (v : Byte) : (s.engWriteTdr v).free = s.free := rfl

@[simp] theorem engReadRdr_cfg : (s.engReadRdr).cfg = s.cfg := rfl
@[simp] theorem engReadRdr_i2c : (s.engReadRdr).i2c = s.i2c := rfl
@[simp] theorem engReadRdr_tw : (s.engReadRdr).tw = s.tw := rfl
@[simp] theorem engReadRdr_uart : (s.engReadRdr).uart = s.uart := rfl
@[simp] theorem engReadRdr_ua : (s.engReadRdr).ua = { s.ua with rxc := false } := rfl
@[simp] theorem engReadRdr_wire : (s.engReadRdr).wire = s.wire := rfl
@[simp] theorem engReadRdr_env : (s.engReadRdr).env = s.env := rfl
@[simp] theorem engReadRdr_mem : (s.engReadRdr).mem = s.mem := rfl
@[simp] theorem engReadRdr_i2cTrace : (s.engReadRdr).i2cTrace = s.i2cTrace := rfl
@[simp] theorem engReadRdr_uartTrace : (s.engReadRdr).uartTrace = s.uartTrace ++ [.rdRdr s.ua.rdr] := rfl
@[simp] theorem engReadRdr_free : (s.engReadRdr).free = s.free := rfl

@[simp] theorem reqWaited_cfg (c : Cond) : (s.reqWaited c).cfg = s.cfg := rfl
@[simp] theorem reqWaited_i2c (c : Cond) : (s.reqWaited c).i2c = s.i2c := rfl
@[simp] theorem reqWaited_tw (c : Cond) : (s.reqWaited c).tw = { s.tw with cond := condCode c, cf := false, status := s.freeAt 0 8 } := rfl
@[simp] theorem reqWaited_uart (c : Cond) : (s.reqWaited c).uart = s.uart := rfl
@[simp] theorem reqWaited_ua (c : Cond) : (s.reqWaited c).ua = s.ua := rfl
@[simp] theorem reqWaited_wire (c : Cond) : (s.reqWaited c).wire = s.wire := rfl
@[simp] theorem reqWaited_env (c : Cond) : (s.reqWaited c).env = { s.env with twCur := operationOf c s.env.twScript, twScript := s.env.twScript.tail } := rfl
@[simp] theorem reqWaited_mem (c : Cond) : (s.reqWaited c).mem = s.mem := rfl
@[simp] theorem reqWaited_i2cTrace (c : Cond) : (s.reqWaited c).i2cTrace = s.i2cTrace ++ [.req c] := rfl
@[simp] theorem reqWaited_uartTrace (c : Cond) : (s.reqWaited c).uartTrace = s.uartTrace := rfl
@[simp] theorem reqWaited_free (c : Cond) : (s.reqWaited c).free = s.free + 1 := rfl

@[simp] theorem reqStop_cfg : (s.reqStop).cfg = s.cfg := rfl
@[simp] theorem reqStop_i2c : (s.reqStop).i2c = s.i2c := rfl
@[simp] theorem reqStop_tw : (s.reqStop).tw = { s.tw with cond := condCode .stop, cf := (s.freeAt 1 1).getLsbD 0, status := s.freeAt 0 8 } := rfl
@[simp] theorem reqStop_uart : (s.reqStop).uart = s.uart := rfl
@[simp] theorem reqStop_ua : (s.reqStop).ua = s.ua := rfl
@[simp] theorem reqStop_wire : (s.reqStop).wire = { s.wire with stop := stopFlightOf s.env.stopScript } := rfl
@[simp] theorem reqStop_env : (s.reqStop).env = { s.env with stopScript := s.env.stopScript.tail } := rfl
@[simp] theorem reqStop_mem : (s.reqStop).mem = s.mem := rfl
@[simp] theorem reqStop_i2cTrace : (s.reqStop).i2cTrace = s.i2cTrace ++ [.req .stop] := rfl
@[simp] theorem reqStop_uartTrace : (s.reqStop).uartTrace = s.uartTrace := rfl
@[simp] theorem reqStop_free : (s.reqStop).free = s.free + 2 := rfl

@[simp] theorem issue_cfg (c : Cond) : (s.issue c).cfg = s.cfg := rfl
@[simp] theorem issue_i2c (c : Cond) : (s.issue c).i2c = { s.i2c with w := true } := rfl
@[simp] theorem issue_tw (c : Cond) : (s.issue c).tw = (s.reqWaited c).tw := rfl
@[simp] theorem issue_uart (c : Cond) : (s.issue c).uart = s.uart := rfl
@[simp] theorem issue_ua (c : Cond) : (s.issue c).ua = s.ua := rfl
@[simp] theorem issue_wire (c : Cond) : (s.issue c).wire = s.wire := rfl
@[simp] theorem issue_env (c : Cond) : (s.issue c).env = (s.reqWaited c).env := rfl
@[simp] theorem issue_mem (c : Cond) : (s.issue c).mem = s.mem := rfl
@[simp] theorem issue_i2cTrace (c : Cond) : (s.issue c).i2cTrace = s.i2cTrace ++ [.req c] := rfl
@[simp] theorem issue_uartTrace (c : Cond) : (s.issue c).uartTrace = s.uartTrace := rfl
@[simp] theorem issue_free (c : Cond) : (s.issue c).free = s.free + 1 := rfl

@[simp] theorem complete_cfg : (s.complete).cfg = s.cfg := rfl
@[simp] theorem complete_i2c : (s.complete).i2c = { s.i2c with st := maskStatus s.tw.status, w := false } := rfl
@[simp] theorem complete_tw : (s.complete).tw = s.tw := rfl
@[simp] theorem complete_uart : (s.complete).uart = s.uart := rfl
@[simp] theorem complete_ua : (s.complete).ua = s.ua := rfl
@[simp] theorem complete_wire : (s.complete).wire = s.wire := rfl
@[simp] theorem complete_env : (s.complete).env = s.env := rfl
@[simp] theorem complete_mem : (s.complete).mem = s.mem := rfl
@[simp] theorem complete_i2cTrace : (s.complete).i2cTrace = s.i2cTrace ++ [.done s.tw.status s.tw.dr] := rfl
@[simp] theorem complete_uartTrace : (s.complete).uartTrace = s.uartTrace := rfl
@[simp] theorem complete_free : (s.complete).free = s.free := rfl

@[simp] theorem stopCond_cfg : (s.stopCond).cfg = s.cfg := rfl
@[simp] theorem stopCond_i2c : (s.stopCond).i2c = { s.i2c with st := 0#8 } := rfl
@[simp] theorem stopCond_tw : (s.stopCond).tw = s.reqStop.tw := rfl
@[simp] theorem stopCond_uart : (s.stopCond).uart = s.uart := rfl
@[simp] theorem stopCond_ua : (s.stopCond).ua = s.ua := rfl
@[simp] theorem stopCond_wire : (s.stopCond).wire = s.reqStop.wire := rfl
@[simp] theorem stopCond_env : (s.stopCond).env = s.reqStop.env := rfl
@[simp] theorem stopCond_mem : (s.stopCond).mem = s.mem := rfl
@[simp] theorem stopCond_i2cTrace : (s.stopCond).i2cTrace = s.i2cTrace ++ [.req .stop] := rfl
@[simp] theorem stopCond_uartTrace : (s.stopCond).uartTrace = s.uartTrace := rfl
@[simp] theorem stopCond_free : (s.stopCond).free = s.free + 2 := rfl

@[simp] theorem stopStep_cfg : (s.stopStep).cfg = s.cfg := rfl
@[simp] theorem stopStep_i2c : (s.stopStep).i2c = { s.i2c with st := 0#8, done := true, ph := .idle } := rfl
@[simp] theorem stopStep_tw : (s.stopStep).tw = s.reqStop.tw := rfl
@[simp] theorem stopStep_uart : (s.stopStep).uart = s.uart := rfl
@[simp] theorem stopStep_ua : (s.stopStep).ua = s.ua := rfl
@[simp] theorem stopStep_wire : (s.stopStep).wire = s.reqStop.wire := rfl
@[simp] theorem stopStep_env : (s.stopStep).env = s.reqStop.env := rfl
@[simp] theorem stopStep_mem : (s.stopStep).mem = s.mem := rfl
@[simp] theorem stopStep_i2cTrace : (s.stopStep).i2cTrace = s.i2cTrace ++ [.req .stop] := rfl
@[simp] theorem stopStep_uartTrace : (s.stopStep).uartTrace = s.uartTrace := rfl
@[simp] theorem stopStep_free : (s.stopStep).free = s.free + 2 := rfl

@[simp] theorem retry_cfg (c : Cause) : (s.retry c).cfg = s.cfg := rfl
@[simp] theorem retry_i2c (c : Cause) : (s.retry c).i2c = { s.i2c with cause := c, n := s.i2c.n + 1#3, ph := .start } := rfl
@[simp] theorem retry_tw (c : Cause) : (s.retry c).tw = s.tw := rfl
@[simp] theorem retry_uart (c : Cause) : (s.retry c).uart = s.uart := rfl
@[simp] theorem retry_ua (c : Cause) : (s.retry c).ua = s.ua := rfl
@[simp] theorem retry_wire (c : Cause) : (s.retry c).wire = s.wire := rfl
@[simp] theorem retry_env (c : Cause) : (s.retry c).env = s.env := rfl
@[simp] theorem retry_mem (c : Cause) : (s.retry c).mem = s.mem := rfl
@[simp] theorem retry_i2cTrace (c : Cause) : (s.retry c).i2cTrace = s.i2cTrace := rfl
@[simp] theorem retry_uartTrace (c : Cause) : (s.retry c).uartTrace = s.uartTrace := rfl
@[simp] theorem retry_free (c : Cause) : (s.retry c).free = s.free := rfl

@[simp] theorem abort_cfg : (s.abort).cfg = s.cfg := rfl
@[simp] theorem abort_i2c : (s.abort).i2c = { s.i2c with cause := .protocol, ph := .stop } := rfl
@[simp] theorem abort_tw : (s.abort).tw = s.tw := rfl
@[simp] theorem abort_uart : (s.abort).uart = s.uart := rfl
@[simp] theorem abort_ua : (s.abort).ua = s.ua := rfl
@[simp] theorem abort_wire : (s.abort).wire = s.wire := rfl
@[simp] theorem abort_env : (s.abort).env = s.env := rfl
@[simp] theorem abort_mem : (s.abort).mem = s.mem := rfl
@[simp] theorem abort_i2cTrace : (s.abort).i2cTrace = s.i2cTrace := rfl
@[simp] theorem abort_uartTrace : (s.abort).uartTrace = s.uartTrace := rfl
@[simp] theorem abort_free : (s.abort).free = s.free := rfl

@[simp] theorem succeed_cfg : (s.succeed).cfg = s.cfg := rfl
@[simp] theorem succeed_i2c : (s.succeed).i2c = { s.i2c with rdata := if s.i2c.ph = .rdata then s.tw.dr else s.i2c.rdata, ok := true, cause := .ok, ph := .stop } := rfl
@[simp] theorem succeed_tw : (s.succeed).tw = s.tw := rfl
@[simp] theorem succeed_uart : (s.succeed).uart = s.uart := rfl
@[simp] theorem succeed_ua : (s.succeed).ua = s.ua := rfl
@[simp] theorem succeed_wire : (s.succeed).wire = s.wire := rfl
@[simp] theorem succeed_env : (s.succeed).env = s.env := rfl
@[simp] theorem succeed_mem : (s.succeed).mem = s.mem := rfl
@[simp] theorem succeed_i2cTrace : (s.succeed).i2cTrace = s.i2cTrace := rfl
@[simp] theorem succeed_uartTrace : (s.succeed).uartTrace = s.uartTrace := rfl
@[simp] theorem succeed_free : (s.succeed).free = s.free := rfl

@[simp] theorem resetEvent_cfg : (s.resetEvent).cfg = s.cfg := rfl
@[simp] theorem resetEvent_i2c : (s.resetEvent).i2c = s.i2cAfterRst := rfl
@[simp] theorem resetEvent_tw : (s.resetEvent).tw = s.tw := rfl
@[simp] theorem resetEvent_uart : (s.resetEvent).uart = s.uartAfterRst := rfl
@[simp] theorem resetEvent_ua : (s.resetEvent).ua = s.ua := rfl
@[simp] theorem resetEvent_wire : (s.resetEvent).wire = s.wire := rfl
@[simp] theorem resetEvent_env : (s.resetEvent).env = { s.env with rst := s.env.rst.tail } := rfl
@[simp] theorem resetEvent_mem : (s.resetEvent).mem = s.mem := rfl
@[simp] theorem resetEvent_i2cTrace : (s.resetEvent).i2cTrace = s.i2cTrace := rfl
@[simp] theorem resetEvent_uartTrace : (s.resetEvent).uartTrace = s.uartTrace := rfl
@[simp] theorem resetEvent_free : (s.resetEvent).free = s.free + 15 := rfl

@[simp] theorem popHost_cfg : (s.popHost).cfg = s.cfg := rfl
@[simp] theorem popHost_i2c : (s.popHost).i2c = s.i2c := rfl
@[simp] theorem popHost_tw : (s.popHost).tw = s.tw := rfl
@[simp] theorem popHost_uart : (s.popHost).uart = s.uart := rfl
@[simp] theorem popHost_ua : (s.popHost).ua = s.ua := rfl
@[simp] theorem popHost_wire : (s.popHost).wire = s.wire := rfl
@[simp] theorem popHost_env : (s.popHost).env = { s.env with host := s.env.host.tail } := rfl
@[simp] theorem popHost_mem : (s.popHost).mem = s.mem := rfl
@[simp] theorem popHost_i2cTrace : (s.popHost).i2cTrace = s.i2cTrace := rfl
@[simp] theorem popHost_uartTrace : (s.popHost).uartTrace = s.uartTrace := rfl
@[simp] theorem popHost_free : (s.popHost).free = s.free := rfl

@[simp] theorem popPrim_cfg : (s.popPrim).cfg = s.cfg := rfl
@[simp] theorem popPrim_i2c : (s.popPrim).i2c = s.i2c := rfl
@[simp] theorem popPrim_tw : (s.popPrim).tw = s.tw := rfl
@[simp] theorem popPrim_uart : (s.popPrim).uart = s.uart := rfl
@[simp] theorem popPrim_ua : (s.popPrim).ua = s.ua := rfl
@[simp] theorem popPrim_wire : (s.popPrim).wire = s.wire := rfl
@[simp] theorem popPrim_env : (s.popPrim).env = { s.env with primCalls := s.env.primCalls.tail } := rfl
@[simp] theorem popPrim_mem : (s.popPrim).mem = s.mem := rfl
@[simp] theorem popPrim_i2cTrace : (s.popPrim).i2cTrace = s.i2cTrace := rfl
@[simp] theorem popPrim_uartTrace : (s.popPrim).uartTrace = s.uartTrace := rfl
@[simp] theorem popPrim_free : (s.popPrim).free = s.free := rfl

@[simp] theorem uartProgram_cfg (d : Half) (f : Byte) : (s.uartProgram d f).cfg = s.cfg := rfl
@[simp] theorem uartProgram_i2c (d : Half) (f : Byte) : (s.uartProgram d f).i2c = s.i2c := rfl
@[simp] theorem uartProgram_tw (d : Half) (f : Byte) : (s.uartProgram d f).tw = s.tw := rfl
@[simp] theorem uartProgram_uart (d : Half) (f : Byte) : (s.uartProgram d f).uart = s.uart := rfl
@[simp] theorem uartProgram_ua (d : Half) (f : Byte) : (s.uartProgram d f).ua = { s.ua with brrh := d.extractLsb' 8 8, brrl := d.extractLsb' 0 8, en := 3#2, fmt := f } := rfl
@[simp] theorem uartProgram_wire (d : Half) (f : Byte) : (s.uartProgram d f).wire = s.wire := rfl
@[simp] theorem uartProgram_env (d : Half) (f : Byte) : (s.uartProgram d f).env = s.env := rfl
@[simp] theorem uartProgram_mem (d : Half) (f : Byte) : (s.uartProgram d f).mem = s.mem := rfl
@[simp] theorem uartProgram_i2cTrace (d : Half) (f : Byte) : (s.uartProgram d f).i2cTrace = s.i2cTrace := rfl
@[simp] theorem uartProgram_uartTrace (d : Half) (f : Byte) : (s.uartProgram d f).uartTrace = s.uartTrace ++ [.wrBrrh (d.extractLsb' 8 8)] ++ [.wrBrrl (d.extractLsb' 0 8)] ++ [.wrEn 3#2] ++ [.wrFmt f] := rfl
@[simp] theorem uartProgram_free (d : Half) (f : Byte) : (s.uartProgram d f).free = s.free := rfl

end Updates

end Sys2Proof.Machine
end

