-- ==== Sys2Proof/Laws/Ops.lean ====
section
/-! SUPPORT. What each shared operation can do, said once: the buffer, the environment's moves, the primitive, the failure
events, the accept steps, the unit steps and the step. Proofs cite these instead of unfolding the operations. -/

namespace Sys2Proof.Machine

/-! ### The caller buffer -/

theorem memWfFrom_mono {lo hi : Nat} (h : lo ≤ hi) (m : List Host.Cell) (hm : memWfFrom hi m = true) :
    memWfFrom lo m = true := by
  cases m with
  | nil => rfl
  | cons c m =>
    simp only [memWfFrom, Bool.and_eq_true, decide_eq_true_eq] at hm ⊢
    exact ⟨⟨⟨by omega, hm.1.1.2⟩, hm.1.2⟩, hm.2⟩

theorem memGet_below {lo : Nat} (m : List Host.Cell) (hm : memWfFrom lo m = true) {a : Nat} (ha : a < lo) :
    memGet m a = 0#8 := by
  induction m generalizing lo with
  | nil => rfl
  | cons c m ih =>
    simp only [memWfFrom, Bool.and_eq_true, decide_eq_true_eq] at hm
    have hne : c.1 ≠ a := by omega
    simp only [memGet, hne, if_false]
    exact ih hm.2 (by omega)

theorem memSet_wfFrom {lo : Nat} (m : List Host.Cell) (hm : memWfFrom lo m = true) (a : Nat) (b : Byte)
    (ha : a < Config.bufferSize) (hlo : lo ≤ a) : memWfFrom lo (memSet m a b) = true := by
  induction m generalizing lo with
  | nil => by_cases hb : b = 0#8 <;> simp [memSet, hb, memWfFrom, ha, hlo]
  | cons c m ih =>
    obtain ⟨k, v⟩ := c
    simp only [memWfFrom, Bool.and_eq_true, decide_eq_true_eq] at hm
    obtain ⟨⟨⟨h1, h2⟩, h3⟩, h4⟩ := hm
    simp only [memSet]
    split
    · split
      · simp [memWfFrom, h1, h2, h3, h4]
      · simp [memWfFrom, *]
    · split
      · next he =>
        subst he
        split
        · exact memWfFrom_mono (by omega) m h4
        · simp [memWfFrom, *]
      · next hlt hne =>
        have := ih h4 (by omega)
        simp [memWfFrom, h1, h2, h3, this]

/-- Placing a byte keeps the canonical form. -/
theorem memSet_wf (m : List Host.Cell) (hm : memWf m = true) (a : Half) (b : Byte) :
    memWf (memSet m a.toNat b) = true :=
  memSet_wfFrom m hm a.toNat b (by have := a.isLt; simpa [Config.bufferSize] using this) (Nat.zero_le _)

/-- A byte read after a byte was placed. -/
theorem memGet_memSet (m : List Host.Cell) {lo : Nat} (hm : memWfFrom lo m = true) (a : Nat) (b : Byte) (c : Nat) :
    memGet (memSet m a b) c = if c = a then b else memGet m c := by
  induction m generalizing lo with
  | nil =>
    by_cases hb : b = 0#8 <;> by_cases hc : c = a <;> simp [memSet, memGet, hb, hc, Ne.symm]
  | cons e m ih =>
    obtain ⟨k, v⟩ := e
    simp only [memWfFrom, Bool.and_eq_true, decide_eq_true_eq] at hm
    obtain ⟨⟨⟨h1, h2⟩, h3⟩, h4⟩ := hm
    simp only [memSet]
    split
    · next hlt =>
      split
      · next hb =>
        split
        · next hc =>
          subst hc; subst hb
          have : k ≠ c := by omega
          simp only [memGet, this, if_false]
          exact memGet_below m h4 (by omega)
        · rfl
      · simp only [memGet]
        by_cases hc : c = a
        · subst hc; simp
        · simp [Ne.symm hc, hc]
    · split
      · next he =>
        subst he
        split
        · next hb =>
          subst hb
          by_cases hc : c = a
          · subst hc; simp [memGet_below m h4 (Nat.lt_succ_self _)]
          · simp [memGet, hc, Ne.symm hc]
        · by_cases hc : c = a
          · subst hc; simp [memGet]
          · simp [memGet, hc, Ne.symm hc]
      · next hne =>
        simp only [memGet, ih h4]
        by_cases hc : k = c
        · subst hc; simp [Ne.symm hne]
        · simp [hc]

/-! ### The environment's moves -/

section Tick

variable (s : State)

/-- What coming nearer to `rst` changes. -/
theorem rstTick_shape : ∃ r, s.rstTick = { s with env := { s.env with rst := r } } := by
  unfold State.rstTick
  split <;> exact ⟨_, rfl⟩

/-- What the work on a requested stop changes. -/
theorem stopTick_shape : ∃ w, s.stopTick = { s with wire := w } := by
  unfold State.stopTick
  split <;> exact ⟨_, rfl⟩

/-- What the work on a start condition changes. -/
theorem startTick_shape : ∃ w c, s.startTick = { s with wire := w, env := { s.env with twCur := c } } := by
  unfold State.startTick
  split
  · split <;> exact ⟨_, _, rfl⟩
  · exact ⟨_, _, rfl⟩

/-- What the work on a requested operation changes. -/
theorem twTick_shape : ∃ f st d w c, s.twTick =
    { s with
      tw := { s.tw with cf := f, status := st, dr := d }, wire := w, env := { s.env with twCur := c } } := by
  unfold State.twTick
  split
  · exact ⟨_, _, _, _, _, rfl⟩
  · split <;> exact ⟨_, _, _, _, _, rfl⟩

/-- What the UART engine's sample changes. -/
theorem uaTick_shape : ∃ d x r u, s.uaTick =
    { s with ua := { s.ua with dre := d, rxc := x, rdr := r }, env := { s.env with uaScript := u } } := by
  unfold State.uaTick
  split
  · exact ⟨_, _, _, _, rfl⟩
  · split <;> exact ⟨_, _, _, _, rfl⟩

/-- All that the environment can change before a step. -/
theorem tick_shape : ∃ f st d w c r e x b u, s.tick =
    { s with
      tw := { s.tw with cf := f, status := st, dr := d }, wire := w, ua := { s.ua with dre := e, rxc := x, rdr := b }
      env := { s.env with rst := r, twCur := c, uaScript := u } } := by
  obtain ⟨r, h1⟩ := rstTick_shape s
  obtain ⟨w1, h2⟩ := stopTick_shape s.rstTick
  obtain ⟨w2, c1, h3⟩ := startTick_shape s.rstTick.stopTick
  obtain ⟨f, st, d, w3, c2, h4⟩ := twTick_shape s.rstTick.stopTick.startTick
  obtain ⟨e, x, b, u, h5⟩ := uaTick_shape s.rstTick.stopTick.startTick.twTick
  exact ⟨f, st, d, w3, c2, r, e, x, b, u, by rw [State.tick, h5, h4, h3, h2, h1]⟩

/-- What the environment never touches before a step: the units, the parameters, the buffer, the traces, the registers of
the ports that only the units write, the host's list. -/
theorem tick_frame :
    s.tick.cfg = s.cfg ∧ s.tick.i2c = s.i2c ∧ s.tick.uart = s.uart ∧ s.tick.mem = s.mem ∧
    s.tick.i2cTrace = s.i2cTrace ∧ s.tick.uartTrace = s.uartTrace ∧ s.tick.free = s.free ∧
    s.tick.env.host = s.env.host ∧ s.tick.env.primCalls = s.env.primCalls ∧
    s.tick.env.stopScript = s.env.stopScript ∧ s.tick.env.twScript = s.env.twScript ∧
    s.tick.tw.brr = s.tw.brr ∧ s.tick.tw.cond = s.tw.cond ∧
    s.tick.ua.brrh = s.ua.brrh ∧ s.tick.ua.brrl = s.ua.brrl ∧ s.tick.ua.en = s.ua.en ∧ s.tick.ua.fmt = s.ua.fmt ∧
    s.tick.ua.tdr = s.ua.tdr ∧ s.tick.env.openScript = s.env.openScript := by
  obtain ⟨f, st, d, w, c, r, e, x, b, u, h⟩ := tick_shape s
  simp [h]

@[simp] theorem tick_cfg : s.tick.cfg = s.cfg := (tick_frame s).1
@[simp] theorem tick_i2c : s.tick.i2c = s.i2c := (tick_frame s).2.1
@[simp] theorem tick_uart : s.tick.uart = s.uart := (tick_frame s).2.2.1
@[simp] theorem tick_mem : s.tick.mem = s.mem := (tick_frame s).2.2.2.1
@[simp] theorem tick_i2cTrace : s.tick.i2cTrace = s.i2cTrace := (tick_frame s).2.2.2.2.1
@[simp] theorem tick_uartTrace : s.tick.uartTrace = s.uartTrace := (tick_frame s).2.2.2.2.2.1
@[simp] theorem tick_free : s.tick.free = s.free := (tick_frame s).2.2.2.2.2.2.1
@[simp] theorem tick_host : s.tick.env.host = s.env.host := (tick_frame s).2.2.2.2.2.2.2.1
@[simp] theorem tick_primCalls : s.tick.env.primCalls = s.env.primCalls := (tick_frame s).2.2.2.2.2.2.2.2.1

/-- Without a pending reset, stop, operation or poll the environment does nothing. -/
theorem tick_quiet (h1 : s.env.rst = []) (h2 : s.wire.stop = .none) (h3 : s.env.twCur = none)
    (h4 : s.uart.ph = .idle ∨ s.env.uaScript = []) : s.tick = s := by
  have e1 : s.rstTick = s := by simp [State.rstTick, h1]
  have e2 : s.stopTick = s := by simp [State.stopTick, h2]
  have e3 : s.startTick = s := by simp [State.startTick, h3]
  have e4 : s.twTick = s := by simp [State.twTick, h3]
  have e5 : s.uaTick = s := by
    unfold State.uaTick
    rcases h4 with h | h <;> simp [h]
  rw [State.tick, e1, e2, e3, e4, e5]

/-- Only coming nearer to `rst` moves the list of its assertions. -/
theorem tick_rst : s.tick.env.rst = s.rstTick.env.rst := by
  obtain ⟨w1, h2⟩ := stopTick_shape s.rstTick
  obtain ⟨w2, c1, h3⟩ := startTick_shape s.rstTick.stopTick
  obtain ⟨f, st, d, w3, c2, h4⟩ := twTick_shape s.rstTick.stopTick.startTick
  obtain ⟨e, x, b, u, h5⟩ := uaTick_shape s.rstTick.stopTick.startTick.twTick
  rw [State.tick, h5, h4, h3, h2]

/-- Without an assertion of `rst` to come there is none after a move of the environment. -/
theorem tick_noRst (h : s.env.rst = []) : s.tick.env.rst = [] := by
  rw [tick_rst]
  simp [State.rstTick, h]

/-- A poll of a busy UART unit takes the next sample (R43). -/
theorem tick_sample (x : UaSample) (r : List UaSample) (hp : s.uart.ph ≠ .idle) (h : s.env.uaScript = x :: r) :
    s.tick.ua.dre = x.dre ∧ s.tick.ua.rxc = x.rxc ∧ s.tick.ua.rdr = x.rdr ∧ s.tick.env.uaScript = r := by
  obtain ⟨q, h1⟩ := rstTick_shape s
  obtain ⟨w1, h2⟩ := stopTick_shape s.rstTick
  obtain ⟨w2, c1, h3⟩ := startTick_shape s.rstTick.stopTick
  obtain ⟨f, st, d, w3, c2, h4⟩ := twTick_shape s.rstTick.stopTick.startTick
  rw [State.tick, h4, h3, h2, h1]
  simp [State.uaTick, hp, h]

/-- The UART engine's sample leaves the two-wire engine alone. -/
theorem uaTick_twSide : s.uaTick.tw = s.tw ∧ s.uaTick.wire = s.wire ∧ s.uaTick.env.twCur = s.env.twCur := by
  obtain ⟨d, x, r, u, h⟩ := uaTick_shape s
  simp [h]

/-- The work on a start condition leaves the rest of the operation's answer as it is. -/
theorem startTick_operation (o : Operation) (h : s.env.twCur = some o) :
    ∃ n, s.startTick.env.twCur = some { o with answer := { o.answer with startAfter := n } } := by
  obtain ⟨c, a⟩ := o
  unfold State.startTick
  rw [h]
  cases c
  case start =>
    rcases h' : a.startAfter with _ | _ | d <;> simp only [h']
    · exact ⟨none, by rw [h, ← h']⟩
    all_goals exact ⟨_, rfl⟩
  all_goals exact ⟨a.startAfter, h⟩

/-- An operation whose delay has run out ends: the flag, the status and the data byte are the answer's (R33). -/
theorem tick_answer (o : Operation) (h : s.env.twCur = some o) (hd : o.answer.delay = some 0) :
    s.tick.tw.cf = true ∧ s.tick.tw.status = o.answer.status ∧ s.tick.tw.dr = o.answer.dr.getD s.tw.dr ∧
    s.tick.env.twCur = none := by
  obtain ⟨q, h1⟩ := rstTick_shape s
  obtain ⟨w1, h2⟩ := stopTick_shape s.rstTick
  have hc : s.rstTick.stopTick.env.twCur = some o := by rw [h2, h1]; exact h
  obtain ⟨n, h3⟩ := startTick_operation _ o hc
  obtain ⟨w2, c1, h4⟩ := startTick_shape s.rstTick.stopTick
  have ht : s.rstTick.stopTick.startTick.tw = s.tw := by rw [h4, h2, h1]
  obtain ⟨e1, -, e2⟩ := uaTick_twSide s.rstTick.stopTick.startTick.twTick
  rw [State.tick, e1, e2, State.twTick, h3]
  simp [hd, ht]

/-! #### The wire (R45) -/

/-- The work on a stop opens no wire; it closes one only when a stop in flight ends. -/
theorem stopTick_wire : s.stopTick.wire.isOpen = s.wire.isOpen ∨
    (s.wire.stop = .ending 0 ∧ s.stopTick.wire.isOpen = false) := by
  unfold State.stopTick
  split
  · next h => exact .inr ⟨h, rfl⟩
  all_goals exact .inl rfl

/-- The work on a start condition leaves the wire, or opens it for a START in progress. -/
theorem startTick_wire : s.startTick.wire = s.wire ∨
    (s.startTick.wire = .started ∧ ∃ a, s.env.twCur = some ⟨.start, a⟩) := by
  unfold State.startTick
  split
  · next a h =>
    split
    · exact .inr ⟨rfl, a, h⟩
    all_goals exact .inl rfl
  · exact .inl rfl

/-- An operation leaves the wire, or opens it when it is a START. -/
theorem twTick_wire : s.twTick.wire = s.wire ∨
    (s.twTick.wire = .started ∧ ∃ a, s.env.twCur = some ⟨.start, a⟩) := by
  unfold State.twTick
  split
  · exact .inl rfl
  · next o h =>
    split
    · exact .inl rfl
    · by_cases hs : o.startsAtEnd s.cfg.codes = true
      · refine .inr ⟨by simp [hs], o.answer, ?_⟩
        have : o.cond = .start := by
          simp only [Operation.startsAtEnd, Bool.and_eq_true, decide_eq_true_eq] at hs
          exact hs.1
        rw [h, ← this]
      · exact .inl (by simp [hs])
    · exact .inl rfl

/-- Before a step the wire opens only for a START in progress and closes only when a stop in flight ends (R45, R46). -/
theorem tick_wire_isOpen (h : s.tick.wire.isOpen ≠ s.wire.isOpen) :
    (s.tick.wire.isOpen = true ∧ ∃ a, s.env.twCur = some ⟨.start, a⟩) ∨
    (s.tick.wire.isOpen = false ∧ s.wire.stop = .ending 0) := by
  obtain ⟨q, h1⟩ := rstTick_shape s
  obtain ⟨w1, h2⟩ := stopTick_shape s.rstTick
  obtain ⟨w2, c1, h3⟩ := startTick_shape s.rstTick.stopTick
  have hr : s.rstTick.wire = s.wire := by rw [h1]
  have hc : s.rstTick.stopTick.env.twCur = s.env.twCur := by rw [h2, h1]
  have hs : ∀ a, s.rstTick.stopTick.startTick.env.twCur = some ⟨.start, a⟩ → ∃ b, s.env.twCur = some ⟨.start, b⟩ := by
    intro a ha
    rcases ho : s.env.twCur with _ | o
    · simp [State.startTick, hc, ho] at ha
    · obtain ⟨n, hn⟩ := startTick_operation s.rstTick.stopTick o (by rw [hc, ho])
      obtain ⟨c, b⟩ := o
      rw [hn] at ha
      simp only [Option.some.injEq, Operation.mk.injEq] at ha
      exact ⟨b, by rw [ha.1]⟩
  have e := (uaTick_twSide s.rstTick.stopTick.startTick.twTick).2.1
  rw [State.tick, e] at h ⊢
  rcases twTick_wire s.rstTick.stopTick.startTick with h5 | ⟨h5, a, ha⟩
  · rw [h5] at h ⊢
    rcases startTick_wire s.rstTick.stopTick with h6 | ⟨h6, a, ha⟩
    · rw [h6] at h ⊢
      rcases stopTick_wire s.rstTick with h7 | ⟨h7, h8⟩
      · rw [hr] at h7
        exact absurd h7 h
      · rw [hr] at h7
        exact .inr ⟨h8, h7⟩
    · exact .inl ⟨by rw [h6]; rfl, a, by rw [← hc, ha]⟩
  · exact .inl ⟨by rw [h5]; rfl, hs a ha⟩

/-- A START that the status acknowledges leaves the wire open when it ends (R45). -/
theorem tick_started (a : Answer) (h : s.env.twCur = some ⟨.start, a⟩) (hd : a.delay = some 0)
    (hk : maskStatus a.status = s.cfg.codes.start ∨ maskStatus a.status = s.cfg.codes.repStart) :
    s.tick.wire = .started := by
  obtain ⟨q, h1⟩ := rstTick_shape s
  obtain ⟨w1, h2⟩ := stopTick_shape s.rstTick
  have hc : s.rstTick.stopTick.env.twCur = some ⟨.start, a⟩ := by rw [h2, h1]; exact h
  obtain ⟨n, h3⟩ := startTick_operation _ _ hc
  obtain ⟨w2, c1, h4⟩ := startTick_shape s.rstTick.stopTick
  have ht : s.rstTick.stopTick.startTick.cfg = s.cfg := by rw [h4, h2, h1]
  obtain ⟨-, e, -⟩ := uaTick_twSide s.rstTick.stopTick.startTick.twTick
  rw [State.tick, e, State.twTick, h3]
  rcases hk with hk | hk <;> simp [hd, ht, Operation.startsAtEnd, hk]

end Tick

/-! ### The primitive -/

/-- A waited condition issues, waits or completes (R102). -/
theorem waitedCond_cases (s : State) (c : Cond) :
    (s.i2c.w = false ∧ s.waitedCond c = s.issue c) ∨
    (s.i2c.w = true ∧ s.tw.cf = false ∧ s.waitedCond c = s) ∨
    (s.i2c.w = true ∧ s.tw.cf = true ∧ s.waitedCond c = s.complete) := by
  unfold State.waitedCond
  cases s.i2c.w <;> cases s.tw.cf <;> simp

/-! ### Failure events and outcomes -/

/-- A failure event retries, exhausts or aborts (R160 to R162). -/
theorem takeEvent_cases (s : State) (e : Event) :
    (e = .protocol ∧ s.takeEvent e = s.abort) ∨
    (e ≠ .protocol ∧ s.i2c.n < Config.retries ∧ s.takeEvent e = s.retry (causeOf e)) ∨
    (e ≠ .protocol ∧ ¬ s.i2c.n < Config.retries ∧ s.takeEvent e = s.exhaust (causeOf e)) := by
  cases e <;> simp only [State.takeEvent] <;> by_cases h : s.i2c.n < Config.retries <;> simp [h]

/-- Exhaustion ends the command and leaves the wire as U11 says, or goes to phase STOP under `STOP_ON_EXHAUSTION` (R161,
R168; log 25). -/
theorem exhaust_cases (s : State) (c : Cause) :
    (s.cfg.stopOnExhaustion = true ∧ s.exhaust c = { s with i2c := { s.i2c with cause := c, exh := true, ph := .stop } }) ∨
    (s.cfg.stopOnExhaustion = false ∧
      s.exhaust c =
        { s with
          i2c := { s.i2c with cause := c, exh := true, done := true, ph := .idle }
          wire := { s.wire with isOpen := s.openAfterExhaustion c }
          env := { s.env with openScript := s.env.openScript.tail } }) := by
  cases h : s.cfg.stopOnExhaustion <;> simp [State.exhaust, h]

/-- What the outcome of a completion step can be (R146). -/
theorem applyOutcome_next {s t : State} (h : applyOutcome s = .next t) :
    (∃ p, decodeStatus s.cfg.codes s.i2c.ph s.i2c.st = .continue_ ∧ nextPhase s.i2c.op s.i2c.ph = some p ∧
      t = { s with i2c := { s.i2c with ph := p } }) ∨
    (decodeStatus s.cfg.codes s.i2c.ph s.i2c.st = .success ∧ t = s.succeed) ∨
    (∃ e, decodeStatus s.cfg.codes s.i2c.ph s.i2c.st = .raise e ∧ t = s.takeEvent e) := by
  unfold applyOutcome at h
  split at h
  · next hd =>
    split at h
    · next p hp => exact .inl ⟨p, hd, hp, by cases h; rfl⟩
    · cases h
  · next hd => exact .inr (.inl ⟨hd, by cases h; rfl⟩)
  · next e hd => exact .inr (.inr ⟨e, hd, by cases h; rfl⟩)

/-! ### Accept steps -/

/-- An accepted transaction (R143). -/
theorem acceptTransaction_next {op : BitVec 2} {dev daddr : Byte} {addr : Half} {v : Byte} {s t : State}
    (h : acceptTransaction op dev daddr addr v s = .next t) :
    s.i2c.ph = .idle ∧ s.i2c.inited = true ∧ t = { s with i2c := acceptedI2c s.i2c op dev daddr addr v } := by
  unfold acceptTransaction at h
  split at h
  · cases h
  · split at h
    · cases h
    · next h1 h2 =>
      cases h
      exact ⟨by simpa using h1, by simpa using h2, rfl⟩

/-- An accepted transfer runs what follows (R191). -/
theorem acceptTransfer_next {s t : State} {k : Host.Outcome State Fault Refusal} (h : acceptTransfer s k = .next t) :
    s.uart.ph = .idle ∧ s.uart.inited = true ∧ k = .next t := by
  unfold acceptTransfer at h
  split at h
  · cases h
  · split at h
    · cases h
    · next h1 h2 => exact ⟨by simpa using h1, by simpa using h2, h⟩

/-! ### Unit steps -/

/-- The load of a phase writes `tw.dr` or nothing (R145, R148). -/
theorem loadPhase_cases (s : State) :
    (loadOf s.i2c s.i2c.ph = none ∧ s.loadPhase = s) ∨
    (∃ b, loadOf s.i2c s.i2c.ph = some b ∧ s.loadPhase = s.engWriteDr b) := by
  unfold State.loadPhase
  cases h : loadOf s.i2c s.i2c.ph <;> simp

/-- What a step of the I2C unit can be (R145, R146, R159). -/
theorem i2cUnitStep_next {s t : State} (h : i2cUnitStep s = .next t) :
    (s.i2c.ph = .idle ∧ t = s) ∨
    (s.i2c.ph = .stop ∧ t = s.stopStep) ∨
    (s.i2c.ph ≠ .idle ∧ s.i2c.ph ≠ .stop ∧ s.i2c.w = false ∧ t = s.issueStep) ∨
    (s.i2c.ph ≠ .idle ∧ s.i2c.ph ≠ .stop ∧ s.i2c.w = true ∧ s.tw.cf = false ∧ t = s) ∨
    (s.i2c.ph ≠ .idle ∧ s.i2c.ph ≠ .stop ∧ s.i2c.w = true ∧ s.tw.cf = true ∧ applyOutcome s.complete = .next t) := by
  unfold i2cUnitStep at h
  split at h
  · next hp => exact .inl ⟨hp, by cases h; rfl⟩
  · next hp => exact .inr (.inl ⟨hp, by cases h; rfl⟩)
  · next h1 h2 =>
    by_cases hw : s.i2c.w = true
    · simp only [hw, if_true] at h
      unfold completionStep at h
      by_cases hc : s.tw.cf = true
      · simp only [hc, if_true, State.waitedCond, hw] at h
        exact .inr (.inr (.inr (.inr ⟨h1, h2, hw, hc, h⟩)))
      · simp only [hc] at h
        exact .inr (.inr (.inr (.inl ⟨h1, h2, hw, by simpa using hc, by cases h; rfl⟩)))
    · simp only [hw] at h
      exact .inr (.inr (.inl ⟨h1, h2, by simpa using hw, by cases h; rfl⟩))

/-- What a step of the UART unit can be (R196, R198). -/
theorem uartUnitStep_next {s t : State} (h : uartUnitStep s = .next t) :
    (s.uart.ph = .idle ∧ t = s) ∨
    (s.uart.ph = .txw ∧ s.ua.dre = false ∧ t = s) ∨
    (∃ b, s.uart.ph = .txw ∧ s.ua.dre = true ∧ s.txByte = some b ∧
      t = { s.engWriteTdr b with uart := sentUart s.uart }) ∨
    (s.uart.ph = .rxw ∧ s.ua.rxc = false ∧ t = s) ∨
    (s.uart.ph = .rxw ∧ s.ua.rxc = true ∧
      t = { s.engReadRdr with uart := { s.uart with rx := s.ua.rdr, done := true, ph := .idle } }) := by
  unfold uartUnitStep at h
  split at h
  · next hp => exact .inl ⟨hp, by cases h; rfl⟩
  · next hp =>
    unfold txwStep at h
    by_cases hd : s.ua.dre = true
    · simp only [hd, if_true] at h
      split at h
      · cases h
      · next b hb => exact .inr (.inr (.inl ⟨b, hp, hd, hb, by cases h; rfl⟩))
    · simp only [hd] at h
      exact .inr (.inl ⟨hp, by simpa using hd, by cases h; rfl⟩)
  · next hp =>
    unfold rxwStep at h
    by_cases hd : s.ua.rxc = true
    · simp only [hd, if_true] at h
      exact .inr (.inr (.inr (.inr ⟨hp, hd, by cases h; rfl⟩)))
    · simp only [hd] at h
      exact .inr (.inr (.inr (.inl ⟨hp, by simpa using hd, by cases h; rfl⟩)))

/-! ### Commands and the step -/

/-- A command word that answers a next state decodes, and the step is the meaning of its instruction. -/
theorem execWord_next {p : Port} {w : Word48} {s t : State} (h : execWord p w s = .next t) :
    ∃ i, decode (.command p w) = .ok i ∧ exec i s = .next t := by
  unfold execWord at h
  split at h
  · cases h
  · next i hi => exact ⟨i, hi, h⟩

/-- What a step can be: one case per move. -/
theorem step_next {s t : State} (h : step s = .next t) :
    (s.move = .reset ∧ t = s.resetEvent) ∨
    (s.move = .i2c ∧ i2cUnitStep s.tick = .next t) ∨
    (s.move = .primWait ∧ t = s.tick.primComplete) ∨
    (s.move = .uart ∧ uartUnitStep s.tick = .next t) ∨
    (∃ c, s.move = .primCall c ∧ exec (decodeCond c) s.tick.popPrim = .next t) ∨
    (∃ a b, s.move = .fill a b ∧ t = s.tick.popHost.fillBuffer a b) ∨
    (∃ p w i, s.move = .command p w ∧ decode (.command p w) = .ok i ∧ exec i s.tick.popHost = .next t) ∨
    (s.move = .wait ∧ t = s.tick) := by
  unfold step at h
  split at h
  · cases h
  · next hm => exact .inl ⟨hm, by cases h; rfl⟩
  · next hm => exact .inr (.inl ⟨hm, h⟩)
  · next hm => exact .inr (.inr (.inl ⟨hm, by cases h; rfl⟩))
  · next hm => exact .inr (.inr (.inr (.inl ⟨hm, h⟩)))
  · next c hm => exact .inr (.inr (.inr (.inr (.inl ⟨c, hm, h⟩))))
  · next a b hm => exact .inr (.inr (.inr (.inr (.inr (.inl ⟨a, b, hm, by cases h; rfl⟩)))))
  · next p w hm =>
    obtain ⟨i, hi, he⟩ := execWord_next h
    exact .inr (.inr (.inr (.inr (.inr (.inr (.inl ⟨p, w, i, hm, hi, he⟩))))))
  · next hm => exact .inr (.inr (.inr (.inr (.inr (.inr (.inr ⟨hm, by cases h; rfl⟩))))))

end Sys2Proof.Machine
end

