-- ==== Sys2Proof/Laws/PerInstr.lean ====
section
/-! SUPPORT. Statements about every instruction as it is encoded, one lemma per constructor. Family `TableRow`: the encoded
word lies in its row of spec/opcode_table.json (spec/30_encoding.md R81, R84, R87, R88, R98). -/

namespace Sys2Proof

/-- The bits of an encoded instruction that the masks of the opcode table test: the top byte of a command word, the whole
condition code. -/
def tableBits : Encoded → Encoded
  | .command p w => .command p (w &&& 0xFF0000000000#48)
  | .cond c => .cond (c &&& 3#2)

/-- The port and the match value of the instruction's row. -/
def tableMatch : Instr → Encoded
  | .i2cInit => .command .i2c 0x000000000000#48
  | .i2cSendByte _ _ _ _ => .command .i2c 0x010000000000#48
  | .i2cReadByte _ _ _ _ => .command .i2c 0x020000000000#48
  | .i2cReservedOp3 => .command .i2c 0x030000000000#48
  | .uartInit _ _ => .command .uart 0x000000000000#48
  | .uartTxByte _ => .command .uart 0x010000000000#48
  | .uartTxBuffer _ _ => .command .uart 0x020000000000#48
  | .uartRxByte => .command .uart 0x030000000000#48
  | .condStart => .cond 0#2
  | .condStop => .cond 1#2
  | .condData => .cond 2#2
  | .condStatReserved => .cond 3#2

/-- The top byte is bits 47:40. -/
theorem topMask_low : ∀ k : Fin 40, (0xFF0000000000#48).getLsbD k = false := by decide

/-- A field below bit 40 shows nothing in the top byte. -/
theorem place_top {n : Nat} (v : BitVec n) (lo : Nat) (h : lo + n ≤ 40) : place v lo &&& 0xFF0000000000#48 = 0#48 := by
  apply BitVec.eq_of_getLsbD_eq
  intro k hk
  simp only [place, BitVec.getLsbD_and, BitVec.getLsbD_shiftLeft, BitVec.getLsbD_setWidth, BitVec.getLsbD_zero]
  by_cases h40 : k < 40
  · simp [topMask_low ⟨k, h40⟩]
  · simp [BitVec.getLsbD_of_ge v (k - lo) (by omega)]

/-- The opcode lies in the top byte. -/
theorem place_op_top (op : BitVec 2) : place op 40 &&& 0xFF0000000000#48 = place op 40 := by
  revert op
  decide

theorem and_or_right (a b m : Word48) : (a ||| b) &&& m = (a &&& m) ||| (b &&& m) := by
  apply BitVec.eq_of_getLsbD_eq
  intro k hk
  simp [Bool.and_or_distrib_right]

theorem i2cWord_top (op : BitVec 2) (device daddr : Byte) (address : Half) (value : Byte) :
    i2cWord op device daddr address value &&& 0xFF0000000000#48 = place op 40 := by
  simp [i2cWord, and_or_right, place_op_top, place_top]

theorem uartWord_top (op : BitVec 2) (a : BitVec 32) (b : Byte) :
    uartWord op a b &&& 0xFF0000000000#48 = place op 40 := by
  simp [uartWord, and_or_right, place_op_top, place_top]

end Sys2Proof

namespace Sys2Proof.Laws.TableRow

/-- The encoded instruction lies in its row of the opcode table. -/
def Statement (i : Instr) : Prop := tableBits (encode i) = tableMatch i

theorem i2cInit : Statement .i2cInit := by
  unfold Statement
  decide

theorem i2cSendByte (device daddr : Byte) (address : Half) (value : Byte) :
    Statement (.i2cSendByte device daddr address value) :=
  congrArg (Encoded.command .i2c) (i2cWord_top 1#2 device daddr address value)

theorem i2cReadByte (device daddr : Byte) (address : Half) (value : Byte) :
    Statement (.i2cReadByte device daddr address value) :=
  congrArg (Encoded.command .i2c) (i2cWord_top 2#2 device daddr address value)

theorem i2cReservedOp3 : Statement .i2cReservedOp3 := by
  unfold Statement
  decide

theorem uartInit (baud : BitVec 32) (fmt : Byte) : Statement (.uartInit baud fmt) :=
  congrArg (Encoded.command .uart) (uartWord_top 0#2 baud fmt)

theorem uartTxByte (byte : Byte) : Statement (.uartTxByte byte) :=
  congrArg (Encoded.command .uart) (uartWord_top 1#2 0#32 byte)

theorem uartTxBuffer (base len : Half) : Statement (.uartTxBuffer base len) :=
  congrArg (Encoded.command .uart) (uartWord_top 2#2 (base.setWidth 32 <<< 16 ||| len.setWidth 32) 0#8)

theorem uartRxByte : Statement .uartRxByte := by
  unfold Statement
  decide

theorem condStart : Statement .condStart := by
  unfold Statement
  decide

theorem condStop : Statement .condStop := by
  unfold Statement
  decide

theorem condData : Statement .condData := by
  unfold Statement
  decide

theorem condStatReserved : Statement .condStatReserved := by
  unfold Statement
  decide

end Sys2Proof.Laws.TableRow
end

