-- ==== Sys2Proof/Laws/Safety.lean ====
section
/-! SUPPORT. Traces put one after the other: what they show of the bus and how many requests they hold. -/

namespace Sys2Proof.Machine

theorem driven_append (l m : List I2cEvent) : driven (l ++ m) = driven l ++ driven m := by
  induction l with
  | nil => rfl
  | cons e l ih => cases e <;> simp [driven, ih]

theorem requests_append (l m : List I2cEvent) : requests (l ++ m) = requests l + requests m := by
  induction l with
  | nil => simp [requests]
  | cons e l ih => cases e <;> simp [requests, ih]; omega

end Sys2Proof.Machine
end

