-- ==== Sys2Proof/Tests/Slice0.lean ====
section
/-! SUPPORT. Tests: the checks of WellFormed, words written out from the spec's encodings, single steps with results from
spec/95_test_vectors.md, and for every obligation with hypotheses a theorem that some state meets them. -/

namespace Sys2Proof.Tests

open Sys2Proof.Machine

/-! ### WellFormed refuses -/

-- R94: the reserved opcode.
theorem test_wf_reserved_opcode : Instr.wf Config.default .i2cReservedOp3 = false := by decide

-- R193, V161: quotient 0.
theorem test_wf_baud_quotient_zero : Instr.wf Config.default (.uartInit 2000000#32 0#8) = false := by decide

-- R193, V162: the divisor does not fit 16 bits.
theorem test_wf_baud_too_low : Instr.wf Config.default (.uartInit 15#32 0#8) = false := by decide

-- R193, V163: division by zero.
theorem test_wf_baud_zero : Instr.wf Config.default (.uartInit 0#32 0#8) = false := by decide

-- R70, V177 and V178: the last byte of the buffer space, and one past it.
theorem test_wf_buffer_past_top :
    Instr.wf Config.default (.uartTxBuffer 0xFFFF#16 2#16) = false ∧
    Instr.wf Config.default (.uartTxBuffer 0xFFFF#16 1#16) = true := by decide

-- R89: STAT under each policy.
theorem test_wf_stat :
    Instr.wf Config.default .condStatReserved = false ∧
    Instr.wf { Config.default with statPolicy := .asData } .condStatReserved = true := by decide

/-! ### Words written out field by field (R80, R83, R88) -/

-- I2C48: zero, op, device, daddr, address, value.
theorem test_decode_i2cInit_ignores_operands :
    decode (.command .i2c (0b000000#6 ++ 0b00#2 ++ 0b11111111#8 ++ 0b11111111#8 ++ 0b1111111111111111#16 ++ 0b11111111#8))
      = .ok .i2cInit := by decide

theorem test_decode_i2cSendByte :
    decode (.command .i2c (0b000000#6 ++ 0b01#2 ++ 0b01010000#8 ++ 0b00000101#8 ++ 0b0000000011111111#16 ++ 0b10100101#8))
      = .ok (.i2cSendByte 0x50#8 0x05#8 0x00FF#16 0xA5#8) := by decide

theorem test_decode_i2cReadByte :
    decode (.command .i2c (0b000000#6 ++ 0b10#2 ++ 0b10100111#8 ++ 0b00001111#8 ++ 0b0001001000110100#16 ++ 0b00000000#8))
      = .ok (.i2cReadByte 0xA7#8 0x0F#8 0x1234#16 0#8) := by decide

theorem test_decode_i2cReservedOp3 :
    decode (.command .i2c (0b000000#6 ++ 0b11#2 ++ 0b00000000#8 ++ 0b00000000#8 ++ 0b0000000000000000#16 ++ 0b00000000#8))
      = .ok .i2cReservedOp3 := by decide

-- UART48: zero, op, A, B.
theorem test_decode_uartInit :
    decode (.command .uart (0b000000#6 ++ 0b00#2 ++ 0b00000000000000011100001000000000#32 ++ 0b00000110#8))
      = .ok (.uartInit 115200#32 0x06#8) := by decide

theorem test_decode_uartTxByte_ignores_a :
    decode (.command .uart (0b000000#6 ++ 0b01#2 ++ 0b11111111111111111111111111111111#32 ++ 0b01001000#8))
      = .ok (.uartTxByte 0x48#8) := by decide

theorem test_decode_uartTxBuffer_ignores_b :
    decode (.command .uart (0b000000#6 ++ 0b10#2 ++ (0b1111111111111111#16 ++ 0b0000000000000001#16) ++ 0b11111111#8))
      = .ok (.uartTxBuffer 0xFFFF#16 1#16) := by decide

theorem test_decode_uartRxByte_ignores_operands :
    decode (.command .uart (0b000000#6 ++ 0b11#2 ++ 0b11111111111111111111111111111111#32 ++ 0b11111111#8))
      = .ok .uartRxByte := by decide

-- COND2.
theorem test_decode_cond :
    decode (.cond 0b00#2) = .ok .condStart ∧ decode (.cond 0b01#2) = .ok .condStop ∧
    decode (.cond 0b10#2) = .ok .condData ∧ decode (.cond 0b11#2) = .ok .condStatReserved := by decide

-- V15: the zero field, lowest and highest bit, on either port.
theorem test_decode_zero_field :
    decode (.command .i2c 0x040000000000#48) = .error .zeroField ∧
    decode (.command .uart 0x800000000000#48) = .error .zeroField := by decide

-- V2, V9: the encoder writes the words of R97.
theorem test_encode_words :
    encode (.i2cSendByte 0xA0#8 0#8 0x0123#16 0x5A#8) = .command .i2c 0x01A00001235A#48 ∧
    encode (.uartInit 115200#32 0x06#8) = .command .uart 0x000001C20006#48 ∧
    encode (.uartTxBuffer 0x0100#16 2#16) = .command .uart 0x020100000200#48 := by decide

/-! ### Operand computations -/

-- V71, V75, V76, V77, V78.
theorem test_slaw :
    slaw 0xA0#8 0x01#8 = 0xA2#8 ∧ slaw 0xA7#8 0x0F#8 = 0xAE#8 ∧ slaw 0x50#8 0x05#8 = 0x5A#8 ∧
    slaw 0x0F#8 0xF8#8 = 0x00#8 ∧ slaw 0xFF#8 0xFF#8 = 0xFE#8 := by decide

theorem test_slar :
    slar 0xA0#8 0x01#8 = 0xA3#8 ∧ slar 0xA7#8 0x0F#8 = 0xAF#8 ∧ slar 0x50#8 0x05#8 = 0x5B#8 ∧
    slar 0x0F#8 0xF8#8 = 0x01#8 ∧ slar 0xFF#8 0xFF#8 = 0xFF#8 := by decide

-- V80, V82.
theorem test_subaddress_split :
    addrHigh 0x1234#16 = 0x12#8 ∧ addrLow 0x1234#16 = 0x34#8 ∧ addrHigh 0x8000#16 = 0x80#8 ∧ addrLow 0x8000#16 = 0x00#8 := by
  decide

-- V90, V94, V96, V97, V98, V100.
theorem test_bit_rate :
    bitRate Config.default = 24#8 ∧ bitRate { Config.default with fCpu := 18432000 } = 28#8 ∧
    bitRate { Config.default with fCpu := 4000000 } = 0#8 ∧ bitRate { Config.default with fCpu := 131999999 } = 255#8 ∧
    clockLegal { Config.default with fCpu := 3999999 } = false ∧
    clockLegal { Config.default with fCpu := 132000000 } = false := by decide

-- V150, V156, V157, V158.
theorem test_baud_divisor :
    baudDivisor Config.default 9600#32 = 103#16 ∧ baudDivisor Config.default 300#32 = 0x0D04#16 ∧
    baudDivisor Config.default 1000000#32 = 0#16 ∧ baudDivisor Config.default 16#32 = 0xF423#16 := by decide

/-- The block's defaults are a legal configuration. -/
theorem test_default_config_legal : configLegal Config.default = true := by decide

/-! ### The status decoder: table R132, row by row over the eight waited phases -/

/-- The phases in the order of the columns of R132. -/
def columns : List Phase := [.start, .slaw, .addrHi, .addrLo, .wdata, .rstart, .slar, .rdata]

/-- One row of R132. -/
def row (st : Byte) : List DecodeOutcome := columns.map fun p => decodeStatus Config.defaultCodes p (maskStatus st)

/-- The cell `A` of R132. -/
def a : DecodeOutcome := .raise .protocol

theorem test_row_08 : row 0x0F#8 = [.continue_, a, a, a, a, .continue_, a, a] := by decide
theorem test_row_10 : row 0x10#8 = [.continue_, a, a, a, a, .continue_, a, a] := by decide
theorem test_row_18 : row 0x18#8 = [a, .continue_, a, a, a, a, a, a] := by decide
theorem test_row_20 : row 0x20#8 = [a, .raise .addrNack, a, a, a, a, a, a] := by decide
theorem test_row_28 : row 0x28#8 = [a, a, .continue_, .continue_, .success, a, a, a] := by decide
theorem test_row_30 : row 0x30#8 = [a, a, a, a, a, a, a, a] := by decide
theorem test_row_38 :
    row 0x38#8 = [.raise .arbLost, .raise .arbLost, a, a, a, .raise .arbLost, .raise .arbLost, a] := by decide
theorem test_row_40 : row 0x40#8 = [a, a, a, a, a, a, .continue_, a] := by decide
theorem test_row_48 : row 0x48#8 = [a, a, a, a, a, a, .raise .addrNack, a] := by decide
theorem test_row_50 : row 0x50#8 = [a, a, a, a, a, a, a, a] := by decide
theorem test_row_58 : row 0x5F#8 = [a, a, a, a, a, a, a, .success] := by decide
theorem test_row_others : row 0x00#8 = [a, a, a, a, a, a, a, a] ∧ row 0xF8#8 = [a, a, a, a, a, a, a, a] := by decide

/-! ### States for the tests -/

/-- The state after an outcome. -/
def after (o : Host.Outcome State Fault Refusal) : Option State :=
  match o with
  | .next s => some s
  | _ => none

/-- Both units initialised and idle. -/
def ready : State :=
  { State.reset with
    i2c := { I2cUnit.reset with inited := true }
    uart := { UartUnit.reset with inited := true } }

/-- `ready` with a word on a command port. -/
def presented (p : Port) (w : Word48) : State := { ready with env := { ready.env with host := [.present p w] } }

/-- A command of the I2C unit in progress: `i2c.send` or `i2c.read` of vectors V110 and V130, in the given phase. -/
def inPhase (op : BitVec 2) (p : Phase) (n : BitVec 3) : State :=
  { ready with
    i2c :=
      { ready.i2c with op := op, addr := 0x0123#16, dev := 0xA0#8, daddr := 0#8, val := 0x5A#8, n := n, ph := p } }

/-- The same, waiting, with the operation ended with the given raw status and data byte. -/
def answered (op : BitVec 2) (p : Phase) (n : BitVec 3) (st dr : Byte) : State :=
  { inPhase op p n with
    i2c := { (inPhase op p n).i2c with w := true }
    tw := { (inPhase op p n).tw with cf := true, status := st, dr := dr } }

/-- A transmit in progress: byte `idx` of `len` from 0x0100, whose bytes are 48 and 69 (program P6). -/
def transmitting (op : BitVec 2) (len idx : Half) (dre : Bool) : State :=
  { ready with
    uart := { ready.uart with op := op, byte := 0x21#8, bufp := 0x0100#16, len := len, idx := idx, ph := .txw }
    ua := { ready.ua with dre := dre }
    mem := [(0x0100, 0x48#8), (0x0101, 0x69#8)] }

/-- A receive in progress, the byte 0D there or not (V179). -/
def receiving (rxc : Bool) : State :=
  { ready with
    uart := { ready.uart with op := 3#2, ph := .rxw }
    ua := { ready.ua with rxc := rxc, rdr := 0x0D#8 } }

/-- An answer given at once. -/
def atOnce (st : Byte) : Answer := { delay := some 0, startAfter := none, status := st, dr := none }

/-- The unit waits, its last request being the condition `c` and the engine's answer to it `x`, on an open or closed wire. -/
def inFlight (c : Cond) (x : Answer) (isOpen : Bool) : State :=
  { inPhase 1#2 .start 0#3 with
    i2c := { (inPhase 1#2 .start 0#3).i2c with w := true }
    wire := { isOpen := isOpen, stop := .none }
    env := { ready.env with twCur := some { cond := c, answer := x } } }

/-! ### Single steps -/

-- V90: I2C.INIT.
theorem test_i2cInit :
    (after (exec .i2cInit State.reset)).map (fun t => (t.tw.brr, t.i2c.inited, t.i2c.done, t.i2cTrace))
      = some (24#8, true, true, [.wrBrr 24#8]) := by decide

-- R143: the accept step clears what the last command left.
theorem test_i2cSendByte_clears :
    (after (exec (.i2cSendByte 0xA0#8 0#8 0x0123#16 0x5A#8)
      { ready with i2c := { ready.i2c with n := 5#3, exh := true, cause := .addrNack, done := true, rdata := 0x77#8 } })).map
      (fun t => (t.i2c.n, t.i2c.exh, t.i2c.cause, t.i2c.done, t.i2c.ph, t.i2c.rdata))
      = some (0#3, false, .ok, false, .start, 0x77#8) := by decide

-- V190: refused before I2C.INIT.
theorem test_i2cSendByte_not_initialised : after (exec (.i2cSendByte 0xA0#8 0#8 0x0123#16 0x5A#8) State.reset) = none := by
  decide

-- V130: operands of a read.
theorem test_i2cReadByte_latches :
    (after (step (presented .i2c 0x02A70F123400#48))).map
      (fun t => (t.i2c.op, t.i2c.dev, t.i2c.daddr, t.i2c.addr, t.i2c.ph))
      = some (2#2, 0xA7#8, 0x0F#8, 0x1234#16, .start) := by decide

-- V191: refused by a busy unit.
theorem test_i2cReadByte_busy : after (exec (.i2cReadByte 0xA0#8 0#8 0x0123#16 0#8) (inPhase 1#2 .slaw 0#3)) = none := by
  decide

-- V14: the reserved opcode.
theorem test_i2cReservedOp3 : after (exec .i2cReservedOp3 ready) = none := by decide

-- V170 and V171: divisor, enables, format 0 and a format of its own.
theorem test_uartInit_default_format :
    (after (exec (.uartInit 9600#32 0#8) State.reset)).map (fun t => (t.uartTrace, t.uart.inited, t.uart.baud))
      = some ([.wrBrrh 0x00#8, .wrBrrl 0x67#8, .wrEn 0b11#2, .wrFmt 0x06#8], true, 9600#32) := by decide

theorem test_uartInit_own_format :
    (after (exec (.uartInit 115200#32 0x2E#8) State.reset)).map (fun t => t.uartTrace)
      = some [.wrBrrh 0x00#8, .wrBrrl 0x07#8, .wrEn 0b11#2, .wrFmt 0x2E#8] := by decide

-- V172: the accept step, then the TXW step.
theorem test_uartTxByte_accept :
    (after (exec (.uartTxByte 0x48#8) ready)).map (fun t => (t.uart.byte, t.uart.len, t.uart.ph, t.uartTrace))
      = some (0x48#8, 1#16, .txw, []) := by decide

theorem test_uartTxByte_sends :
    (after (uartUnitStep (transmitting 1#2 1#16 0#16 true))).map (fun t => (t.uartTrace, t.uart.done, t.uart.ph))
      = some ([.wrTdr 0x21#8], true, .idle) := by decide

-- V176: an empty buffer completes at once; V175: the last byte of two.
theorem test_uartTxBuffer_empty :
    (after (exec (.uartTxBuffer 0x0100#16 0#16) ready)).map (fun t => (t.uart.done, t.uart.ph, t.uartTrace))
      = some (true, .idle, []) := by decide

theorem test_uartTxBuffer_last_byte :
    (after (uartUnitStep (transmitting 2#2 2#16 1#16 true))).map (fun t => (t.uartTrace, t.uart.idx, t.uart.done, t.uart.ph))
      = some ([.wrTdr 0x69#8], 2#16, true, .idle) := by decide

-- V179: the received byte; V181: refused before UART.INIT.
theorem test_uartRxByte_takes :
    (after (uartUnitStep (receiving true))).map (fun t => (t.uart.rx, t.uart.done, t.uart.ph, t.uartTrace))
      = some (0x0D#8, true, .idle, [.rdRdr 0x0D#8]) := by decide

theorem test_uartRxByte_not_initialised : after (exec .uartRxByte State.reset) = none := by decide

-- V21: the low three bits of the status are masked.
theorem test_condStart_masks :
    (after (exec .condStart (answered 1#2 .start 0#3 0x0B#8 0#8))).map (fun t => (t.i2c.st, t.i2c.w))
      = some (0x08#8, false) := by decide

-- V26: STOP answers 0 at once.
theorem test_condStop :
    (after (exec .condStop { ready with i2c := { ready.i2c with st := 0x38#8 } })).map (fun t => (t.i2c.st, t.tw.cond, t.i2cTrace))
      = some (0#8, 1#2, [.req .stop]) := by decide

-- V24: a received byte stays in tw.dr.
theorem test_condData_receives :
    (after (exec .condData (answered 2#2 .rdata 0#3 0x5F#8 0x77#8))).map (fun t => (t.i2c.st, t.tw.dr, t.i2cTrace))
      = some (0x58#8, 0x77#8, [.done 0x5F#8 0x77#8]) := by decide

-- V28: STAT under each policy.
theorem test_condStat :
    after (exec .condStatReserved ready) = none ∧
    (after (exec .condStatReserved { ready with cfg := { ready.cfg with statPolicy := .asData } })).map (fun t => t.i2cTrace)
      = some [.req .data] := by decide

-- V110: the address byte goes out before the request.
theorem test_slaw_loads :
    (after (i2cUnitStep (inPhase 1#2 .slaw 0#3))).map (fun t => (t.tw.dr, t.i2c.w, t.i2cTrace))
      = some (0xA0#8, true, [.wrDr 0xA0#8, .req .data]) := by decide

-- V113: an address NACK is retried.
theorem test_slaw_nack_retries :
    (after (i2cUnitStep (answered 1#2 .slaw 1#3 0x20#8 0xA0#8))).map (fun t => (t.i2c.n, t.i2c.ph, t.i2c.cause, t.i2c.st))
      = some (2#3, .start, .addrNack, 0x20#8) := by decide

-- V117: the sixth is exhaustion, without STOP.
theorem test_slaw_nack_exhausts :
    (after (i2cUnitStep (answered 1#2 .slaw 5#3 0x20#8 0xA0#8))).map
      (fun t => (t.i2c.n, t.i2c.ph, t.i2c.exh, t.i2c.done, t.i2c.ok))
      = some (5#3, .idle, true, true, false) := by decide

-- R45: a START opens the wire when its status says so, or before its end at the scripted moment; a DATA never does.
theorem test_start_opens_wire :
    (inFlight .start (atOnce 0x08#8) false).tick.wire.isOpen = true ∧
    (inFlight .start (atOnce 0x38#8) false).tick.wire.isOpen = false ∧
    (inFlight .start { atOnce 0x38#8 with delay := none, startAfter := some 0 } false).tick.wire.isOpen = true := by decide

theorem test_data_leaves_wire :
    (inFlight .data (atOnce 0x08#8) false).tick.wire.isOpen = false ∧
    (inFlight .data { atOnce 0x20#8 with startAfter := some 0 } true).tick.wire.isOpen = true := by decide

-- R45: a finished stop closes the wire.
theorem test_stop_closes_wire :
    ({ ready with wire := { isOpen := true, stop := .ending 0 } } : State).tick.wire = { isOpen := false, stop := .none } := by
  decide

-- V117 and R272: the bus is left open after address NACKs, and not after lost arbitrations; U11: any value.
theorem test_exhaustion_wire :
    let s (st : Byte) : State := { answered 1#2 .slaw 5#3 st 0xA0#8 with wire := { isOpen := true, stop := .none } }
    (after (i2cUnitStep (s 0x20#8))).map (fun t => t.wire.isOpen) = some true ∧
    (after (i2cUnitStep (s 0x38#8))).map (fun t => t.wire.isOpen) = some false ∧
    (after (i2cUnitStep { s 0x20#8 with env := { ready.env with openScript := [false] } })).map (fun t => t.wire.isOpen)
      = some false := by decide

-- V118: under STOP_ON_EXHAUSTION phase STOP follows.
theorem test_exhaustion_with_stop :
    (after (i2cUnitStep
      { answered 1#2 .slaw 5#3 0x20#8 0xA0#8 with cfg := { Config.default with stopOnExhaustion := true } })).map
      (fun t => (t.i2c.ph, t.i2c.exh, t.i2c.done)) = some (.stop, true, false) := by decide

-- V62: arbitration lost at ADDR_HI aborts.
theorem test_addrHi_arbitration_aborts :
    (after (i2cUnitStep (answered 1#2 .addrHi 0#3 0x38#8 0x01#8))).map (fun t => (t.i2c.ph, t.i2c.cause, t.i2c.n))
      = some (.stop, .protocol, 0#3) := by decide

-- V130: the received byte goes to the output slot; V136: with the read-ACK status it is discarded.
theorem test_rdata_success :
    (after (i2cUnitStep (answered 2#2 .rdata 0#3 0x58#8 0x77#8))).map (fun t => (t.i2c.rdata, t.i2c.ok, t.i2c.ph))
      = some (0x77#8, true, .stop) := by decide

theorem test_rdata_read_ack_discards :
    (after (i2cUnitStep (answered 2#2 .rdata 0#3 0x50#8 0x99#8))).map (fun t => (t.i2c.rdata, t.i2c.ok, t.i2c.cause))
      = some (0#8, false, .protocol) := by decide

-- V192: a reset in mid-transaction; nothing is requested.
theorem test_reset_event :
    (after (step { answered 1#2 .addrLo 3#3 0x28#8 0x23#8 with
        env := { State.reset.env with rst := [0] } })).map
      (fun t => (t.i2c.ph, t.i2c.w, t.i2c.n, t.i2c.inited, t.i2cTrace)) = some (.idle, false, 0#3, false, []) := by decide

/-! ### Words of the opcode table -/

-- The first row of each port's format, and a condition.
theorem test_table_words :
    decodeTableWord 48 0x01A00001235A = some (.i2cSendByte 0xA0#8 0#8 0x0123#16 0x5A#8) ∧
    decodeTableWord 8 2 = some .condData ∧ decodeTableWord 48 0x040000000000 = none := by decide

theorem test_table_word_runs :
    (after (step (State.reset.withFetchWord 48 0))).map (fun t => (t.tw.brr, t.i2c.inited)) = some (24#8, true) ∧
    (after (step (State.reset.withFetchWord 8 0))).map (fun t => t.i2cTrace) = some [.req .start] := by decide

/-! ### Witnesses: for each obligation with hypotheses, states and operands that meet all of them -/

/-- A write in phase WDATA whose answer is there. -/
def busy : State := answered 1#2 .wdata 0#3 0x28#8 0x5A#8

theorem ready_inv : Inv ready :=
  ⟨⟨by decide, by decide, by decide, by decide, by decide, by decide, by decide, by decide, by decide⟩,
    ⟨by decide, by decide, by decide, by decide, by decide⟩, by decide, by decide, by decide⟩

theorem busy_inv : Inv busy :=
  ⟨⟨by decide, by decide, by decide, by decide, by decide, by decide, by decide, by decide, by decide⟩,
    ⟨by decide, by decide, by decide, by decide, by decide⟩, by decide, by decide, by decide⟩

theorem transmitting_inv : Inv (transmitting 2#2 2#16 1#16 true) :=
  ⟨⟨by decide, by decide, by decide, by decide, by decide, by decide, by decide, by decide, by decide⟩,
    ⟨by decide, by decide, by decide, by decide, by decide⟩, by decide, by decide, by decide⟩

theorem ready_ready : Ready ready := ⟨by decide, by decide, by decide, by decide, by decide⟩

theorem presented_ready (p : Port) (w : Word48) : Ready (presented p w) := ⟨test_default_config_legal, rfl, rfl, rfl, rfl⟩

theorem answered_completing : Completing busy := ⟨by decide, by decide, by decide⟩

theorem witness_stepKeepsInvariant : Inv busy ∧ ∃ t, step busy = .next t := ⟨busy_inv, _, rfl⟩

theorem witness_invariantExcludesFaults : Inv busy := busy_inv

theorem witness_busyUnitsAlwaysStep_i2c : Inv busy ∧ configLegal busy.cfg = true ∧ busy.i2c.ph ≠ .idle :=
  ⟨busy_inv, by decide, by decide⟩

theorem witness_busyUnitsAlwaysStep_uart :
    let s := transmitting 2#2 2#16 1#16 true
    Inv s ∧ configLegal s.cfg = true ∧ s.uart.ph ≠ .idle := ⟨transmitting_inv, by decide, by decide⟩

theorem witness_parametersNeverChange : ∃ t, step busy = .next t := ⟨_, rfl⟩

/-- The host places a byte at the top of the buffer space. -/
def filling : State := { ready with env := { ready.env with host := [.fill 0xFFFF#16 0x21#8] } }

theorem witness_bufferChangedByHostOnly :
    memWf filling.mem = true ∧ ∃ t, step filling = .next t ∧ memGet t.mem 65535 ≠ memGet filling.mem 65535 :=
  ⟨by decide, _, rfl, by decide⟩

theorem witness_unitsAreSeparate :
    (∃ t, i2cUnitStep busy = .next t) ∧ (∃ t, uartUnitStep (transmitting 2#2 2#16 0#16 true) = .next t) ∧
    (∃ t, decode (.command .i2c 0#48) = .ok .i2cInit ∧ exec .i2cInit ready = .next t) ∧
    (∃ t, exec (decodeCond 1#2) ready = .next t) ∧
    (∃ t, decode (.command .uart 0x010000000048#48) = .ok (.uartTxByte 0x48#8) ∧ exec (.uartTxByte 0x48#8) ready = .next t) :=
  ⟨⟨_, rfl⟩, ⟨_, rfl⟩, ⟨_, by decide, rfl⟩, ⟨_, rfl⟩, ⟨_, by decide, rfl⟩⟩

theorem witness_bitRateWrittenByInitOnly :
    ∃ t, step (presented .i2c 0#48) = .next t ∧ t.tw.brr ≠ (presented .i2c 0#48).tw.brr := ⟨_, rfl, by decide⟩

theorem witness_uartPortWriters_init :
    ∃ t, step (presented .uart 0x000000258000#48) = .next t ∧ t.ua.brrl ≠ (presented .uart 0x000000258000#48).ua.brrl :=
  ⟨_, rfl, by decide⟩

theorem witness_uartPortWriters_tdr :
    ∃ t, step (transmitting 2#2 2#16 0#16 true) = .next t ∧ t.ua.tdr ≠ (transmitting 2#2 2#16 0#16 true).ua.tdr :=
  ⟨_, rfl, by decide⟩

theorem witness_outputSlot :
    let s := answered 2#2 .rdata 0#3 0x58#8 0x77#8
    ∃ t, step s = .next t ∧ t.i2c.rdata ≠ s.i2c.rdata ∧ s.rstDue = false := ⟨_, rfl, by decide, by decide⟩

theorem witness_tracesOnlyGrow :
    (∃ t, step busy = .next t ∧ t.i2cTrace ≠ busy.i2cTrace) ∧
    (∃ t, step (receiving true) = .next t ∧ t.uartTrace ≠ (receiving true).uartTrace) :=
  ⟨⟨_, rfl, by decide⟩, ⟨_, rfl, by decide⟩⟩

theorem witness_hostWaits :
    (∃ t, step { busy with env := { busy.env with host := [.present .i2c 0#48] } } = .next t) ∧ busy.i2c.ph ≠ .idle :=
  ⟨⟨_, rfl⟩, by decide⟩

theorem witness_resetEvent :
    let s := { busy with env := { busy.env with rst := [0] } }
    configLegal s.cfg = true ∧ s.rstDue = true := by decide

-- The clauses at their boundaries: V96, V97, V98, V100.
theorem witness_illegalConfiguration :
    clockLegal { Config.default with fCpu := 4000000 } = true ∧ clockLegal { Config.default with fCpu := 131999999 } = true ∧
    clockLegal { Config.default with fCpu := 3999999 } = false ∧
    clockLegal { Config.default with fCpu := 132000000 } = false ∧
    configLegal (State.resetOf { Config.default with fCpu := 3999999 }).cfg = false := by decide

theorem witness_encodeOfDecode :
    decode (.command .uart 0x01FFFFFFFF48#48) = .ok (.uartTxByte 0x48#8) ∧
    0x01FFFFFFFF48#48 &&& usedMask (.uartTxByte 0x48#8) = 0x010000000048#48 := by decide

theorem witness_reservedWords_zero :
    let s := presented .uart 0x040000000000#48
    Ready s ∧ s.env.primCalls = [] ∧ s.env.host = [.present .uart 0x040000000000#48] ∧
    (0x040000000000#48).extractLsb' 42 6 ≠ 0#6 := ⟨presented_ready _ _, by decide, by decide, by decide⟩

theorem witness_reservedWords_opcode :
    let s := presented .i2c 0x030000000000#48
    Ready s ∧ s.env.primCalls = [] ∧ s.env.host = [.present .i2c 0x030000000000#48] ∧
    (0x030000000000#48).extractLsb' 42 6 = 0#6 ∧ (0x030000000000#48).extractLsb' 40 2 = 3#2 :=
  ⟨presented_ready _ _, by decide, by decide, by decide, by decide⟩

theorem witness_stepRunsPresentedWord :
    let s := presented .uart 0x030000000000#48
    Ready s ∧ s.env.primCalls = [] ∧ s.env.host = [.present .uart 0x030000000000#48] ∧
    decode (.command .uart 0x030000000000#48) = .ok .uartRxByte := ⟨presented_ready _ _, by decide, by decide, by decide⟩

theorem witness_stepRunsCalledPrimitive :
    let s := { ready with env := { ready.env with primCalls := [1#2] } }
    Ready s ∧ s.env.primCalls = [1#2] := ⟨⟨by decide, by decide, by decide, by decide, by decide⟩, by decide⟩

theorem witness_stepRunsBusyUnit :
    (configLegal busy.cfg = true ∧ busy.rstDue = false ∧ busy.i2c.ph ≠ .idle) ∧
    (let s := receiving false
     configLegal s.cfg = true ∧ s.rstDue = false ∧ s.i2c.ph = .idle ∧ s.i2c.w = false ∧ s.uart.ph ≠ .idle) := by decide

theorem witness_stepRunsTableWord :
    configLegal State.reset.cfg = true ∧ decodeTableWord 48 0x02A000012300 = some (.i2cReadByte 0xA0#8 0#8 0x0123#16 0#8) ∧
    decodeTableWord 8 3 = some .condStatReserved := by decide

theorem witness_wellFormedIsAccepted :
    (configLegal ready.cfg = true ∧ ready.i2c.ph = .idle ∧ ready.uart.ph = .idle ∧ ready.i2c.inited = true ∧
      ready.uart.inited = true ∧ Instr.wf ready.cfg (.uartTxBuffer 0xFFFF#16 1#16) = true) ∧
    Instr.wf ready.cfg .i2cReservedOp3 = false := by decide

theorem witness_i2cInit :
    let s := State.resetOf { Config.default with fCpu := 4000000 }
    let t := State.resetOf { Config.default with fCpu := 131999999 }
    (s.i2c.ph = .idle ∧ clockLegal s.cfg = true) ∧ (t.i2c.ph = .idle ∧ clockLegal t.cfg = true) := by decide

theorem witness_transactionAccepted : ready.i2c.ph = .idle ∧ ready.i2c.inited = true := by decide

theorem witness_transactionAccepted_word :
    (0x02A70F123400#48).extractLsb' 42 6 = 0#6 ∧ (0x02A70F123400#48).extractLsb' 40 2 = 2#2 ∧
    (0x01A00001235A#48).extractLsb' 42 6 = 0#6 ∧ (0x01A00001235A#48).extractLsb' 40 2 = 1#2 ∧
    (busy.i2c.ph ≠ .idle ∧ decode (.command .i2c 0#48) = .ok .i2cInit) := by decide

theorem witness_i2cCommandsRefused :
    busy.i2c.ph ≠ .idle ∧ State.reset.i2c.ph = .idle ∧ State.reset.i2c.inited = false := by decide

theorem witness_waitedConditionIssues : ready.i2c.w = false := by decide

theorem witness_waitedConditionCompletes : busy.i2c.w = true ∧ busy.tw.cf = true := by decide

theorem witness_waitingChangesNothing :
    (let s := { busy with tw := { busy.tw with cf := false } }
     s.i2c.ph.waited = true ∧ s.i2c.w = true ∧ s.tw.cf = false) ∧
    (let s := transmitting 1#2 1#16 0#16 false
     s.uart.ph = .txw ∧ s.ua.dre = false) ∧
    (let s := receiving false
     s.uart.ph = .rxw ∧ s.ua.rxc = false) := by decide

theorem witness_statFollowsPolicy :
    ready.cfg.statPolicy = .refuse ∧
    (let s := { ready with cfg := { ready.cfg with statPolicy := .asData } }
     s.cfg.statPolicy = .asData ∧ s.i2c.w = false) := by decide

theorem witness_phasesLoadThenRequest :
    ∀ p ∈ columns, (inPhase 2#2 p 0#3).i2c.w = false ∧ (inPhase 2#2 p 0#3).i2c.ph = p := by decide

-- Every phase that can continue, with each opcode in ADDR_LO.
theorem witness_continueAdvancesPhase :
    ∀ x ∈ [(1#2, Phase.start, 0x08#8), (1#2, .slaw, 0x18#8), (1#2, .addrHi, 0x28#8), (1#2, .addrLo, 0x28#8),
        (2#2, .addrLo, 0x28#8), (2#2, .rstart, 0x10#8), (2#2, .slar, 0x40#8)],
      let s := answered x.1 x.2.1 0#3 x.2.2 0#8
      s.i2c.ph.waited = true ∧ s.i2c.w = true ∧ s.tw.cf = true ∧ outcomeNow s = .continue_ ∧
      (s.i2c.op = 1#2 ∨ s.i2c.op = 2#2) := by decide

-- The counter at both ends of its range below the bound, each retryable event.
theorem witness_retryRestartsAttempt :
    (let s := answered 1#2 .start 0#3 0x38#8 0#8
     s.i2c.ph.waited = true ∧ s.i2c.w = true ∧ s.tw.cf = true ∧ s.i2c.n < 5#3 ∧ outcomeNow s = .raise .arbLost) ∧
    (let s := answered 2#2 .slar 4#3 0x48#8 0#8
     s.i2c.ph.waited = true ∧ s.i2c.w = true ∧ s.tw.cf = true ∧ s.i2c.n < 5#3 ∧ outcomeNow s = .raise .addrNack) := by
  decide

theorem witness_exhaustionSkipsStop :
    (let s := answered 1#2 .start 5#3 0x38#8 0#8
     s.i2c.ph.waited = true ∧ s.i2c.w = true ∧ s.tw.cf = true ∧ s.i2c.n = 5#3 ∧ outcomeNow s = .raise .arbLost ∧
     s.cfg.stopOnExhaustion = false) ∧
    (let s := answered 1#2 .slaw 5#3 0x20#8 0#8
     s.i2c.ph.waited = true ∧ s.i2c.w = true ∧ s.tw.cf = true ∧ s.i2c.n = 5#3 ∧ outcomeNow s = .raise .addrNack ∧
     s.cfg.stopOnExhaustion = false ∧ s.env.openScript = []) ∧
    (let s := { answered 1#2 .slaw 5#3 0x20#8 0#8 with cfg := { Config.default with stopOnExhaustion := true } }
     s.i2c.ph.waited = true ∧ s.i2c.w = true ∧ s.tw.cf = true ∧ s.i2c.n = 5#3 ∧ outcomeNow s = .raise .addrNack ∧
     s.cfg.stopOnExhaustion = true) := by decide

theorem witness_abortIssuesStop :
    let s := answered 1#2 .start 0#3 0x18#8 0#8
    s.i2c.ph.waited = true ∧ s.i2c.w = true ∧ s.tw.cf = true ∧ outcomeNow s = .raise .protocol := by decide

theorem witness_stopPhase : (inPhase 1#2 .stop 0#3).i2c.ph = .stop := by decide

theorem witness_valuePhaseOutcome :
    Completing busy ∧ busy.i2c.ph = .wdata ∧ maskStatus busy.tw.status = busy.cfg.codes.mtDataAck ∧
    (let s := answered 1#2 .wdata 0#3 0x30#8 0#8
     s.i2c.w = true ∧ s.tw.cf = true ∧ s.i2c.ph = .wdata ∧ maskStatus s.tw.status ≠ s.cfg.codes.mtDataAck) :=
  ⟨answered_completing, by decide, by decide, by decide⟩

theorem witness_receivePhaseOutcome :
    (let s := answered 2#2 .rdata 0#3 0x58#8 0x77#8
     s.i2c.w = true ∧ s.tw.cf = true ∧ s.i2c.ph = .rdata ∧ maskStatus s.tw.status = s.cfg.codes.mrDataNack) ∧
    (let s := answered 2#2 .rdata 0#3 0x50#8 0x99#8
     s.i2c.w = true ∧ s.tw.cf = true ∧ s.i2c.ph = .rdata ∧ maskStatus s.tw.status ≠ s.cfg.codes.mrDataNack) := by decide

theorem witness_finalPhases_issue :
    ((inPhase 1#2 .wdata 0#3).i2c.ph = .wdata ∧ (inPhase 1#2 .wdata 0#3).i2c.w = false) ∧
    ((inPhase 2#2 .rdata 0#3).i2c.ph = .rdata ∧ (inPhase 2#2 .rdata 0#3).i2c.w = false) := by decide

theorem witness_retryablePhases : codesLegal Config.defaultCodes = true := by decide

theorem witness_lowStatusBitsIgnored :
    0x2F#8 &&& 0xF8#8 = busy.tw.status &&& 0xF8#8 ∧ ∃ t, i2cUnitStep busy = .next t := ⟨by decide, _, rfl⟩

theorem witness_requestsStayInBudget : Inv busy ∧ ∃ t, i2cUnitStep busy = .next t := ⟨busy_inv, _, rfl⟩

/-- A write accepted, every answer of its budget there and arbitration lost each time. -/
def scripted (op : BitVec 2) (script : List Answer) : State :=
  { inPhase op .start 0#3 with env := { ready.env with twScript := script } }

theorem scripted_inv (script : List Answer) : Inv (scripted 1#2 script) :=
  have h : Inv (scripted 1#2 []) :=
    ⟨⟨by decide, by decide, by decide, by decide, by decide, by decide, by decide, by decide, by decide⟩,
      ⟨by decide, by decide, by decide, by decide, by decide⟩, by decide, by decide, by decide⟩
  ⟨h.i2c, h.uart, h.oneCommand, h.buffer, h.notExposed⟩

theorem witness_answeredCommandCompletes :
    let s := scripted 1#2 (List.replicate 16 (atOnce 0x38#8))
    Inv s ∧ configLegal s.cfg = true ∧ s.i2c.ph ≠ .idle ∧ s.i2c.w = false ∧ s.env.rst = [] ∧
    (∀ a ∈ s.env.twScript, a.delay = some 0) ∧ requestBudget s.i2c ≤ s.env.twScript.length :=
  ⟨scripted_inv _, by decide, by decide, by decide, by decide, by decide, by decide⟩

theorem witness_acknowledgedWrite :
    let s := scripted 1#2 ([0x08#8, 0x18#8, 0x28#8, 0x28#8, 0x28#8].map atOnce)
    s.env.twScript = [atOnce 0x08#8, atOnce 0x18#8, atOnce 0x28#8, atOnce 0x28#8, atOnce 0x28#8] ∧
    configLegal s.cfg = true ∧ s.env.rst = [] ∧ s.i2c.ph = .start ∧ s.i2c.w = false ∧ s.i2c.op = 1#2 ∧
    answersAtOnce (atOnce 0x08#8) s.cfg.codes.start ∧ answersAtOnce (atOnce 0x18#8) s.cfg.codes.mtSlaAck ∧
    answersAtOnce (atOnce 0x28#8) s.cfg.codes.mtDataAck :=
  ⟨rfl, by decide, by decide, by decide, by decide, by decide, ⟨by decide, by decide⟩, ⟨by decide, by decide⟩,
    ⟨by decide, by decide⟩⟩

theorem witness_acknowledgedRead :
    let last : Answer := { delay := some 0, startAfter := none, status := 0x58#8, dr := some 0x77#8 }
    let s := scripted 2#2 ([0x08#8, 0x18#8, 0x28#8, 0x28#8, 0x10#8, 0x40#8].map atOnce ++ [last])
    s.env.twScript =
      [atOnce 0x08#8, atOnce 0x18#8, atOnce 0x28#8, atOnce 0x28#8, atOnce 0x10#8, atOnce 0x40#8, last] ∧
    configLegal s.cfg = true ∧ s.env.rst = [] ∧ s.i2c.ph = .start ∧ s.i2c.w = false ∧ s.i2c.op = 2#2 ∧
    answersAtOnce (atOnce 0x08#8) s.cfg.codes.start ∧ answersAtOnce (atOnce 0x18#8) s.cfg.codes.mtSlaAck ∧
    answersAtOnce (atOnce 0x28#8) s.cfg.codes.mtDataAck ∧ answersAtOnce (atOnce 0x10#8) s.cfg.codes.repStart ∧
    answersAtOnce (atOnce 0x40#8) s.cfg.codes.mrSlaAck ∧ answersAtOnce last s.cfg.codes.mrDataNack ∧
    last.dr = some 0x77#8 :=
  ⟨rfl, by decide, by decide, by decide, by decide, by decide, ⟨by decide, by decide⟩, ⟨by decide, by decide⟩,
    ⟨by decide, by decide⟩, ⟨by decide, by decide⟩, ⟨by decide, by decide⟩, ⟨by decide, by decide⟩, by decide⟩

theorem witness_sixLostArbitrations :
    let s := scripted 1#2 (List.replicate 6 (atOnce 0x38#8))
    configLegal s.cfg = true ∧ s.env.rst = [] ∧ s.cfg.stopOnExhaustion = false ∧ s.i2c.ph = .start ∧ s.i2c.w = false ∧
    s.i2c.n = 0#3 ∧ answersAtOnce (atOnce 0x38#8) s.cfg.codes.arbLost :=
  ⟨by decide, by decide, by decide, by decide, by decide, by decide, by decide, by decide⟩

-- V157 and V158: the highest and a low legal baud rate.
theorem witness_uartInit :
    ready.uart.ph = .idle ∧ baudLegal ready.cfg 1000000#32 = true ∧ baudLegal ready.cfg 16#32 = true := by decide

-- The clauses of the range at V157, V161, V162 and V163.
theorem witness_baudRange :
    ready.uart.ph = .idle ∧ ready.cfg.fCpu / (16 * (1000000#32).toNat) = 1 ∧ ready.cfg.fCpu / (16 * (2000000#32).toNat) = 0 ∧
    65536 < ready.cfg.fCpu / (16 * (15#32).toNat) ∧ ¬ (0#32 ≠ 0#32) := by decide

theorem witness_transferAccepted : ready.uart.ph = .idle ∧ ready.uart.inited = true := by decide

theorem witness_txBufferAccepted :
    ready.uart.ph = .idle ∧ ready.uart.inited = true ∧ (0xFFFF#16).toNat + (1#16).toNat ≤ 65536 ∧ 1#16 ≠ 0#16 ∧
    (0xFFFF#16).toNat + (0#16).toNat ≤ 65536 := by decide

theorem witness_uartCommandsRefused :
    (receiving false).uart.ph ≠ .idle ∧ (State.reset.uart.ph = .idle ∧ State.reset.uart.inited = false) ∧
    (ready.uart.ph = .idle ∧ ready.uart.inited = true ∧ 65536 < (0xFFFF#16).toNat + (2#16).toNat) := by decide

theorem witness_transmitStep :
    let s := transmitting 2#2 2#16 1#16 true
    UartInv s.uart ∧ s.uart.ph = .txw ∧ s.ua.dre = true ∧ s.uart.idx.toNat + 1 = s.uart.len.toNat :=
  ⟨transmitting_inv.uart, by decide, by decide, by decide⟩

theorem witness_transmitStep_more :
    let s := transmitting 1#2 2#16 0#16 true
    UartInv s.uart ∧ s.uart.ph = .txw ∧ s.ua.dre = true ∧ s.uart.idx.toNat + 1 ≠ s.uart.len.toNat :=
  ⟨⟨by decide, by decide, by decide, by decide, by decide⟩, by decide, by decide, by decide⟩

theorem witness_receiveStep : (receiving true).uart.ph = .rxw ∧ (receiving true).ua.rxc = true := by decide

theorem witness_bufferSentInOrder :
    let s := { transmitting 2#2 2#16 0#16 false with
      env := { ready.env with uaScript := List.replicate 2 { dre := true, rxc := false, rdr := 0#8 } } }
    configLegal s.cfg = true ∧ s.env.rst = [] ∧ s.i2c.ph = .idle ∧ s.i2c.w = false ∧ s.uart.ph = .txw ∧
    s.uart.op = 2#2 ∧ s.uart.idx = 0#16 ∧ s.uart.len ≠ 0#16 ∧ s.uart.bufp.toNat + s.uart.len.toNat ≤ 65536 ∧
    s.uart.len.toNat ≤ s.env.uaScript.length ∧ (∀ x ∈ s.env.uaScript.take s.uart.len.toNat, x.dre = true) := by decide

theorem witness_bufferSentInOrder_any_engine :
    let s := transmitting 2#2 2#16 0#16 false
    configLegal s.cfg = true ∧ s.env.rst = [] ∧ s.env.host = [] ∧ s.env.primCalls = [] ∧ s.i2c.ph = .idle ∧
    s.i2c.w = false ∧ s.uart.ph = .txw ∧ s.uart.op = 2#2 ∧ s.uart.idx = 0#16 ∧ s.uart.len ≠ 0#16 ∧
    s.uart.bufp.toNat + s.uart.len.toNat ≤ 65536 ∧ ∃ t, runFor 3 s = .next t :=
  ⟨by decide, by decide, by decide, by decide, by decide, by decide, by decide, by decide, by decide, by decide, by decide,
    _, rfl⟩

theorem witness_bufferSentInOrder_step :
    let s := transmitting 2#2 2#16 0#16 true
    ∃ t, uartUnitStep s = .next t ∧ s.uart.ph = .txw ∧ t.uartTrace ≠ s.uartTrace := ⟨_, rfl, by decide, by decide⟩

end Sys2Proof.Tests
end

section
/-! The completion step of a waited condition (spec/40_i2c_conditions.md R102 to R104, R107). -/

namespace Sys2Proof.Machine

/-- `COND.START` and `COND.DATA` differ only in the condition they request (R103, R107). -/
theorem exec_waitedInstr (s : State) (b : Bool) : exec (waitedInstr b) s = .next (s.waitedCond (waitedOf b)) := by
  cases b with
  | false => rfl
  | true => rfl

/-- With the wait bit set and `tw.cf` reading 1, the issue and the waiting branch of R102 are excluded. -/
theorem waitedCond_eq_complete {s : State} (hw : s.i2c.w = true) (hcf : s.tw.cf = true) (c : Cond) :
    s.waitedCond c = s.complete := by
  obtain ⟨hw', _⟩ | ⟨_, hcf', _⟩ | ⟨_, _, h⟩ := waitedCond_cases s c
  · simp [hw] at hw'
  · simp [hcf] at hcf'
  · exact h

/-- Settles O30: both instructions run the waited condition, whose step here is the completion step, and that masks the
status with `0xF8` (R104). -/
theorem waitedConditionCompletes : Obligations.WaitedConditionCompletes := by
  intro s b hw hcf
  rw [exec_waitedInstr, waitedCond_eq_complete hw hcf]
  rfl

end Sys2Proof.Machine
end

section
/-! ABORT as an outcome of the status decoder (spec/41_i2c_status_decoder.md R122 to R129). -/

namespace Sys2Proof.Machine

/-- One test of the decoder: where its own outcome is not ABORT, the decoder aborts when the test fails and the tests after
it abort. -/
theorem ite_eq_abort_iff {c : Prop} [Decidable c] {o rest : DecodeOutcome} (ho : o ≠ .raise .protocol) :
    (if c then o else rest) = .raise .protocol ↔ ¬c ∧ rest = .raise .protocol := by
  by_cases hc : c
  · simp [hc, ho]
  · simp [hc]

/-- Phases START and RSTART (R124). -/
theorem decodeStart_eq_abort_iff (k : StatusCodes) (st : Byte) :
    decodeStart k st = .raise .protocol ↔ st ∉ [k.arbLost, k.start, k.repStart] := by
  simp [decodeStart, ite_eq_abort_iff]

/-- Phase SLAW (R125). -/
theorem decodeSlaw_eq_abort_iff (k : StatusCodes) (st : Byte) :
    decodeSlaw k st = .raise .protocol ↔ st ∉ [k.mtSlaNack, k.arbLost, k.mtSlaAck] := by
  simp [decodeSlaw, ite_eq_abort_iff]

/-- Phase SLAR (R126). -/
theorem decodeSlar_eq_abort_iff (k : StatusCodes) (st : Byte) :
    decodeSlar k st = .raise .protocol ↔ st ∉ [k.mrSlaAck, k.mrSlaNack, k.arbLost] := by
  simp [decodeSlar, ite_eq_abort_iff]

/-- A phase with one listed status and no retry (R127 to R129). -/
theorem singleCode_eq_abort_iff {o : DecodeOutcome} (ho : o ≠ .raise .protocol) (st code : Byte) :
    (if st = code then o else .raise .protocol) = .raise .protocol ↔ st ∉ [code] := by
  simp [ite_eq_abort_iff ho]

/-- Settles O44, phase by phase: every listed status is one of the phase's tests, whose outcome is not ABORT, and ABORT is
what is left when all of them fail (R123). In IDLE and STOP nothing is listed. -/
theorem decoderAbortsOnUnlisted : Obligations.DecoderAbortsOnUnlisted := by
  intro k p st
  cases p with
  | start | rstart => exact decodeStart_eq_abort_iff k st
  | slaw => exact decodeSlaw_eq_abort_iff k st
  | addrHi | addrLo => exact singleCode_eq_abort_iff (o := .continue_) (by decide) st k.mtDataAck
  | wdata => exact singleCode_eq_abort_iff (o := .success) (by decide) st k.mtDataAck
  | slar => exact decodeSlar_eq_abort_iff k st
  | rdata => exact singleCode_eq_abort_iff (o := .success) (by decide) st k.mrDataNack
  | idle | stop => simp [decodeStatus, listedStatuses]

end Sys2Proof.Machine
end

section
/-! The completion step of a waited phase and what CONTINUE and ABORT make of it (spec/42_i2c_transactions.md R146, R147,
R159, R162). -/

namespace Sys2Proof.Machine

/-- An enabled completion step latches the status and applies the outcome (R146). -/
theorem i2cUnitStep_of_completing {s : State} (h : Completing s) : i2cUnitStep s = applyOutcome s.complete := by
  obtain ⟨hph, hw, hcf⟩ := h
  unfold i2cUnitStep
  split
  · next hidle => simp [hidle, Phase.waited] at hph
  · next hstop => simp [hstop, Phase.waited] at hph
  · simp only [hw, if_true, completionStep, hcf, waitedCond_eq_complete hw hcf]

/-- The STOP step (R159). -/
theorem i2cUnitStep_of_stop {s : State} (h : s.i2c.ph = .stop) : i2cUnitStep s = .next s.stopStep := by
  simp only [i2cUnitStep, h]

theorem applyOutcome_of_continue {s : State} {q : Phase}
    (hd : decodeStatus s.cfg.codes s.i2c.ph s.i2c.st = .continue_) (hq : nextPhase s.i2c.op s.i2c.ph = some q) :
    applyOutcome s = .next { s with i2c := { s.i2c with ph := q } } := by
  simp only [applyOutcome, hd, hq]

theorem applyOutcome_of_raise {s : State} {e : Event}
    (hd : decodeStatus s.cfg.codes s.i2c.ph s.i2c.st = .raise e) : applyOutcome s = .next (s.takeEvent e) := by
  simp only [applyOutcome, hd]

/-- With the opcode of a transaction, every phase in which the decoder can say CONTINUE has a next phase: the phases without
one, WDATA and RDATA among them, never yield CONTINUE (R147). -/
theorem nextPhase_of_continue {k : StatusCodes} {p : Phase} {st : Byte} {op : BitVec 2} (hop : op = 1#2 ∨ op = 2#2)
    (hd : decodeStatus k p st = .continue_) : ∃ q, nextPhase op p = some q := by
  cases p with
  | start | slaw | addrHi | rstart | slar => exact ⟨_, rfl⟩
  | addrLo =>
    obtain rfl | rfl := hop
    · exact ⟨.wdata, rfl⟩
    · exact ⟨.rstart, rfl⟩
  | wdata | rdata =>
    simp only [decodeStatus] at hd
    split at hd <;> cases hd
  | idle | stop => cases hd

/-- Settles O37: the outcome CONTINUE makes the table R147 give a next phase, and each row of the statement is the table read
at that phase; a phase without a row is neither WDATA nor RDATA. -/
theorem continueAdvancesPhase : Obligations.ContinueAdvancesPhase := by
  intro s hs hd hop
  obtain ⟨q, hq⟩ := nextPhase_of_continue hop hd
  have eq_of_row {p r : Phase} (hp : s.i2c.ph = p) (hr : nextPhase s.i2c.op p = some r) : q = r :=
    Option.some.inj (hq.symm.trans (hp ▸ hr))
  have ne_of_noRow {p : Phase} (hr : nextPhase s.i2c.op p = none) : s.i2c.ph ≠ p := by
    rintro rfl
    cases hq.symm.trans hr
  have hstep : i2cUnitStep s = .next (completedAs s { latched s with ph := q }) := by
    rw [i2cUnitStep_of_completing hs]
    exact applyOutcome_of_continue (s := s.complete) hd hq
  exact ⟨q, hstep, (eq_of_row · rfl), (eq_of_row · rfl), (eq_of_row · rfl),
    fun hp ho => eq_of_row hp (by rw [ho]; rfl), fun hp ho => eq_of_row hp (by rw [ho]; rfl),
    (eq_of_row · rfl), (eq_of_row · rfl), ne_of_noRow rfl, ne_of_noRow rfl⟩

/-- Settles O40: the completion step takes the protocol event, which aborts whatever the counter, and the state it leaves is
in phase STOP, so that the STOP step follows. -/
theorem abortIssuesStop : Obligations.AbortIssuesStop := by
  intro s hs hd
  have hstep : i2cUnitStep s = .next s.complete.abort := by
    rw [i2cUnitStep_of_completing hs]
    exact applyOutcome_of_raise (s := s.complete) hd
  exact ⟨s.complete.abort, s.complete.abort.stopStep, rfl, hstep, i2cUnitStep_of_stop rfl, rfl, rfl⟩

end Sys2Proof.Machine
end

section
/-! The accept steps of the I2C commands (spec/42_i2c_transactions.md R140, R143) and which command a word on the I2C port
is (spec/30_encoding.md R80, R81). -/

namespace Sys2Proof.Machine

theorem decode_i2c {w : Word48} (hz : zeroField w = 0#6) : decode (.command .i2c w) = .ok (decodeI2c w) := by
  simp [decode, decodeWord, hz]

theorem eq_decodeI2c_of_decode {w : Word48} {i : Instr} (h : decode (.command .i2c w) = .ok i) : i = decodeI2c w := by
  simp only [decode, decodeWord] at h
  split at h
  · cases h
  · exact (Except.ok.inj h).symm

theorem decodeI2c_sendByte {w : Word48} (h : opField w = 1#2) :
    decodeI2c w = .i2cSendByte (bits w 32 8) (bits w 24 8) (bits w 8 16) (bits w 0 8) := by
  simp [decodeI2c, h]

theorem decodeI2c_readByte {w : Word48} (h : opField w = 2#2) :
    decodeI2c w = .i2cReadByte (bits w 32 8) (bits w 24 8) (bits w 8 16) (bits w 0 8) := by
  simp [decodeI2c, h]

/-- The accept condition of a transaction holds (R143). -/
theorem acceptTransaction_of_idle {s : State} (hidle : s.i2c.ph = .idle) (hinit : s.i2c.inited = true) (op : BitVec 2)
    (device daddr : Byte) (address : Half) (value : Byte) :
    acceptTransaction op device daddr address value s =
      .next { s with i2c := acceptedI2c s.i2c op device daddr address value } := by
  simp [acceptTransaction, hidle, hinit]

/-- R235 for the transactions. -/
theorem acceptTransaction_of_busy {s : State} (h : s.i2c.ph ≠ .idle) (op : BitVec 2) (device daddr : Byte)
    (address : Half) (value : Byte) : acceptTransaction op device daddr address value s = .refused .unitBusy :=
  if_pos h

/-- R235 for `I2C.INIT`. -/
theorem execI2cInit_of_busy {s : State} (h : s.i2c.ph ≠ .idle) : execI2cInit s = .refused .unitBusy := if_pos h

/-- The accept condition of `I2C.INIT` holds (R140). -/
theorem execI2cInit_of_idle {s : State} (hidle : s.i2c.ph = .idle) (hclock : clockLegal s.cfg = true) :
    execI2cInit s =
      .next { s.engWriteBrr (bitRate s.cfg) with i2c := { s.i2c with inited := true, done := true } } := by
  simp [execI2cInit, hidle, hclock]

/-- A busy unit refuses every command of the I2C port; the reserved opcode is refused in every state (R94, R235). -/
theorem exec_decodeI2c_refused_of_busy {s : State} (h : s.i2c.ph ≠ .idle) (w : Word48) :
    ∃ r, exec (decodeI2c w) s = .refused r := by
  unfold decodeI2c
  split_ifs
  · exact ⟨_, execI2cInit_of_busy h⟩
  · exact ⟨_, acceptTransaction_of_busy h 1#2 _ _ _ _⟩
  · exact ⟨_, acceptTransaction_of_busy h 2#2 _ _ _ _⟩
  · exact ⟨.reservedOpcode, rfl⟩

/-- Settles O26: both commands are the accept step of a transaction with their own opcode, and a word with one of the two
opcodes decodes to the command whose operands are its fields. -/
theorem transactionAccepted : Obligations.TransactionAccepted := by
  refine ⟨fun s device daddr address value hidle hinit => ?_, fun s w hidle hinit hz hop => ?_, fun s w i hbusy hi => ?_⟩
  · have accepted (op : BitVec 2) := acceptTransaction_of_idle hidle hinit op device daddr address value
    exact ⟨accepted 1#2, accepted 2#2⟩
  · have accepted (op : BitVec 2) :=
      acceptTransaction_of_idle hidle hinit op (bits w 32 8) (bits w 24 8) (bits w 8 16) (bits w 0 8)
    refine ⟨decodeI2c w, decode_i2c hz, ?_⟩
    obtain hop | hop := hop
    · rw [decodeI2c_sendByte hop, hop]
      exact accepted 1#2
    · rw [decodeI2c_readByte hop, hop]
      exact accepted 2#2
  · rw [eq_decodeI2c_of_decode hi]
    exact exec_decodeI2c_refused_of_busy hbusy w

/-- With a legal clock the bit-rate formula fits a byte, so nothing is cut off (R140, R141). -/
theorem bitRate_toNat {c : Config} (h : clockLegal c = true) : (bitRate c).toNat = c.fCpu / (2 * 250000) - 8 := by
  have hbound : c.fCpu / (2 * 250000) - 8 < 2 ^ 8 := by
    have := (clockLegal_iff c).mp h
    omega
  exact (BitVec.toNat_ofNat _ 8).trans (Nat.mod_eq_of_lt hbound)

/-- Settles O25: the value written is the bit rate of R140. -/
theorem i2cInitWritesBitRate : Obligations.I2cInitWritesBitRate := by
  intro s hidle hclock
  exact ⟨bitRate s.cfg, bitRate_toNat hclock, execI2cInit_of_idle hidle hclock⟩

end Sys2Proof.Machine
end

section
/-! The accept step of `UART.INIT` (spec/43_uart.md R191 to R193). -/

namespace Sys2Proof.Machine

/-- A legal baud makes the divisor of R192 fit 16 bits, so nothing is cut off (R193). -/
theorem baudDivisor_toNat {c : Config} {baud : BitVec 32} (h : baudLegal c baud = true) :
    (baudDivisor c baud).toNat = c.fCpu / (16 * baud.toNat) - 1 := by
  have hbound : c.fCpu / (16 * baud.toNat) - 1 < 2 ^ 16 := by
    have := (baudLegal_iff c baud).mp h
    omega
  exact (BitVec.toNat_ofNat _ 16).trans (Nat.mod_eq_of_lt hbound)

/-- The accept condition of `UART.INIT` holds (R191, R192). -/
theorem execUartInit_of_idle {s : State} {baud : BitVec 32} (hidle : s.uart.ph = .idle)
    (hbaud : baudLegal s.cfg baud = true) (fmt : Byte) :
    execUartInit baud fmt s =
      .next { s.uartProgram (baudDivisor s.cfg baud) (frameFormat s.cfg fmt) with
        uart := { s.uart with op := 0#2, baud := baud, fmt := fmt, inited := true, done := true } } := by
  simp [execUartInit, hidle, hbaud]

/-- An idle unit refuses every other baud (R193). -/
theorem execUartInit_of_illegal {s : State} {baud : BitVec 32} (hidle : s.uart.ph = .idle)
    (hbaud : baudLegal s.cfg baud = false) (fmt : Byte) : execUartInit baud fmt s = .refused .baudOutOfRange := by
  simp [execUartInit, hidle, hbaud]

/-- The engine and the trace after the four writes; the trace is one list appended, in the order of R192. -/
theorem uartProgram_eq (s : State) (d : Half) (f : Byte) :
    s.uartProgram d f = { s with
      ua := { s.ua with brrh := d.extractLsb' 8 8, brrl := d.extractLsb' 0 8, en := 3#2, fmt := f }
      uartTrace := s.uartTrace ++
        [.wrBrrh (d.extractLsb' 8 8), .wrBrrl (d.extractLsb' 0 8), .wrEn 3#2, .wrFmt f] } := by
  have htrace : (s.uartProgram d f).uartTrace = s.uartTrace ++
      [.wrBrrh (d.extractLsb' 8 8), .wrBrrl (d.extractLsb' 0 8), .wrEn 3#2, .wrFmt f] := by simp
  rw [← htrace]
  rfl

/-- Settles O53: the condition of R193 is `baudLegal`. Where it holds the divisor is the quotient minus 1, and the quotient
is at least 1, so that the truncated subtraction loses nothing. -/
theorem baudRange : Obligations.BaudRange := by
  intro s baud fmt hidle
  rw [← baudLegal_iff]
  refine ⟨fun hlegal => ⟨?_, _, execUartInit_of_idle hidle hlegal fmt⟩, fun hillegal => ?_⟩
  · obtain ⟨_, hpos, _⟩ := (baudLegal_iff s.cfg baud).mp hlegal
    rw [baudDivisor_toNat hlegal, Nat.sub_add_cancel hpos]
  · exact execUartInit_of_illegal hidle (Bool.eq_false_of_not_eq_true hillegal) fmt

/-- Settles O52: the values written are the divisor and the frame format of R192. -/
theorem uartInitProgramsEngine : Obligations.UartInitProgramsEngine := by
  intro s baud fmt hidle hbaud
  refine ⟨baudDivisor s.cfg baud, frameFormat s.cfg fmt, baudDivisor_toNat hbaud, rfl, ?_⟩
  exact (execUartInit_of_idle hidle hbaud fmt).trans (by rw [uartProgram_eq])

end Sys2Proof.Machine
end

section
/-! What a busy unit, a unit that is not initialised and a buffer past the top refuse (spec/60_exceptions.md R235,
spec/70_reset_and_hazards.md R265, R266, spec/43_uart.md R191, spec/20_memory.md R70). -/

namespace Sys2Proof.Machine

/-- R265: an idle unit that is not initialised refuses a transaction. -/
theorem acceptTransaction_of_not_inited {s : State} (hidle : s.i2c.ph = .idle) (hinit : s.i2c.inited = false)
    (op : BitVec 2) (device daddr : Byte) (address : Half) (value : Byte) :
    acceptTransaction op device daddr address value s = .refused .notInitialised := by
  simp [acceptTransaction, hidle, hinit]

/-- R235 for `UART.INIT`. -/
theorem execUartInit_of_busy {s : State} (h : s.uart.ph ≠ .idle) (baud : BitVec 32) (fmt : Byte) :
    execUartInit baud fmt s = .refused .unitBusy := if_pos h

/-- R235 for the transfers: what would follow the accept condition does not matter. -/
theorem acceptTransfer_of_busy {s : State} (h : s.uart.ph ≠ .idle) (k : Host.Outcome State Fault Refusal) :
    acceptTransfer s k = .refused .unitBusy := if_pos h

/-- R266: an idle unit that is not initialised refuses a transfer. -/
theorem acceptTransfer_of_not_inited {s : State} (hidle : s.uart.ph = .idle) (hinit : s.uart.inited = false)
    (k : Host.Outcome State Fault Refusal) : acceptTransfer s k = .refused .notInitialised := by
  simp [acceptTransfer, hidle, hinit]

/-- The accept condition of a transfer holds (R191). -/
theorem acceptTransfer_of_idle {s : State} (hidle : s.uart.ph = .idle) (hinit : s.uart.inited = true)
    (k : Host.Outcome State Fault Refusal) : acceptTransfer s k = k := by
  simp [acceptTransfer, hidle, hinit]

theorem bufferFits_eq_false {base len : Half} (h : 65536 < base.toNat + len.toNat) : bufferFits base len = false :=
  Bool.eq_false_of_not_eq_true fun hfits => Nat.not_le_of_lt h ((bufferFits_iff base len).mp hfits)

/-- R70: an idle, initialised unit refuses a buffer past the top of the buffer space. -/
theorem execUartTxBuffer_of_past_top {s : State} (hidle : s.uart.ph = .idle) (hinit : s.uart.inited = true)
    {base len : Half} (h : 65536 < base.toNat + len.toNat) :
    execUartTxBuffer base len s = .refused .bufferOutOfRange :=
  (acceptTransfer_of_idle hidle hinit _).trans (if_pos (bufferFits_eq_false h))

/-- Settles O27: both transactions are the accept step `acceptTransaction`, whose tests are R235 and then R265. -/
theorem i2cCommandsRefused : Obligations.I2cCommandsRefused := by
  intro s device daddr address value
  refine ⟨fun hbusy => ?_, fun hidle hinit => ?_⟩
  · have busy (op : BitVec 2) := acceptTransaction_of_busy hbusy op device daddr address value
    exact ⟨execI2cInit_of_busy hbusy, busy 1#2, busy 2#2⟩
  · have notInited (op : BitVec 2) := acceptTransaction_of_not_inited hidle hinit op device daddr address value
    exact ⟨notInited 1#2, notInited 2#2⟩

/-- Settles O57: the three transfers share the accept condition `acceptTransfer`, whose tests are R235 and then R266; the
range of the buffer is looked at only where it holds. -/
theorem uartCommandsRefused : Obligations.UartCommandsRefused := by
  intro s baud fmt byte base len
  refine ⟨fun hbusy => ?_, fun hidle hinit => ?_, fun hidle hinit hpast => ?_⟩
  · have busy := acceptTransfer_of_busy hbusy
    exact ⟨execUartInit_of_busy hbusy baud fmt, busy _, busy _, busy _⟩
  · have notInited := acceptTransfer_of_not_inited hidle hinit
    exact ⟨notInited _, notInited _, notInited _⟩
  · exact execUartTxBuffer_of_past_top hidle hinit hpast

end Sys2Proof.Machine
end

section
/-! Which agent a step belongs to, and what each of them can make of the state: inversion lemmas for the move, the step and
the two units, from which the whole-machine statements follow (spec/00_scope.md R14, spec/60_exceptions.md R236). -/

namespace Sys2Proof.Machine

/-! ### The move -/

/-- What the state shows when it is the turn of the given agent. -/
def MoveFits (s : State) : Move → Prop
  | .refuseConfig => configLegal s.cfg = false
  | .reset => s.rstDue = true
  | .i2c => s.rstDue = false ∧ s.i2c.ph ≠ .idle
  | .primWait => s.i2c.ph = .idle ∧ s.i2c.w = true
  | .uart => s.i2c.ph = .idle ∧ s.i2c.w = false ∧ s.uart.ph ≠ .idle
  | .primCall c => Ready s ∧ ∃ rest, s.env.primCalls = c :: rest
  | .fill a b => Ready s ∧ ∃ rest, s.env.host = .fill a b :: rest
  | .command p w => Ready s ∧ s.env.primCalls = [] ∧ ∃ rest, s.env.host = .present p w :: rest
  | .wait => Ready s

theorem move_fits (s : State) : MoveFits s s.move := by
  unfold State.move
  split_ifs with hcfg hrst hi2c hw huart
  · exact hcfg
  · exact hrst
  · exact ⟨by simpa using hrst, hi2c⟩
  · exact ⟨by simpa using hi2c, hw⟩
  · exact ⟨by simpa using hi2c, by simpa using hw, huart⟩
  · have hready : Ready s :=
      ⟨by simpa using hcfg, by simpa using hrst, by simpa using hi2c, by simpa using hw, by simpa using huart⟩
    split
    · next c rest hprim => exact ⟨hready, rest, hprim⟩
    · next hprim =>
      split
      · next a b rest hhost => exact ⟨hready, rest, hhost⟩
      · next p w rest hhost => exact ⟨hready, hprim, rest, hhost⟩
      · exact hready

theorem fits_of_move {s : State} {m : Move} (h : s.move = m) : MoveFits s m := h ▸ move_fits s

theorem move_eq_reset {s : State} (hcfg : configLegal s.cfg = true) (hrst : s.rstDue = true) : s.move = .reset := by
  simp [State.move, hcfg, hrst]

theorem move_eq_i2c {s : State} (hcfg : configLegal s.cfg = true) (hrst : s.rstDue = false) (hph : s.i2c.ph ≠ .idle) :
    s.move = .i2c := by
  simp [State.move, hcfg, hrst, hph]

theorem move_eq_uart {s : State} (hcfg : configLegal s.cfg = true) (hrst : s.rstDue = false) (hph : s.i2c.ph = .idle)
    (hw : s.i2c.w = false) (huart : s.uart.ph ≠ .idle) : s.move = .uart := by
  simp [State.move, hcfg, hrst, hph, hw, huart]

theorem move_eq_primCall {s : State} (h : Ready s) {c : BitVec 2} {rest : List (BitVec 2)}
    (hprim : s.env.primCalls = c :: rest) : s.move = .primCall c := by
  obtain ⟨hcfg, hrst, hph, hw, huart⟩ := h
  simp [State.move, hcfg, hrst, hph, hw, huart, hprim]

theorem move_eq_command {s : State} (h : Ready s) (hprim : s.env.primCalls = []) {p : Port} {w : Word48}
    {rest : List HostAction} (hhost : s.env.host = .present p w :: rest) : s.move = .command p w := by
  obtain ⟨hcfg, hrst, hph, hw, huart⟩ := h
  simp [State.move, hcfg, hrst, hph, hw, huart, hprim, hhost]

/-! ### The step -/

/-- A step to `t`: whose turn it was, what the state showed, and what the agent did. -/
inductive StepCase (s t : State) : Prop
  | reset (due : s.rstDue = true) (ht : t = s.resetEvent)
  | i2c (notDue : s.rstDue = false) (busy : s.i2c.ph ≠ .idle) (ht : i2cUnitStep s.tick = .next t)
  | primWait (idle : s.i2c.ph = .idle) (waiting : s.i2c.w = true) (ht : t = s.tick.waitedCond .data)
  | uart (idle : s.i2c.ph = .idle) (busy : s.uart.ph ≠ .idle) (ht : uartUnitStep s.tick = .next t)
  | primCall (c : BitVec 2) (rest : List (BitVec 2)) (ready : Ready s) (calls : s.env.primCalls = c :: rest)
      (ht : exec (decodeCond c) s.tick.popPrim = .next t)
  | fill (a : Half) (b : Byte) (rest : List HostAction) (ready : Ready s) (host : s.env.host = .fill a b :: rest)
      (ht : t = s.tick.popHost.fillBuffer a b)
  | command (p : Port) (w : Word48) (i : Instr) (rest : List HostAction) (ready : Ready s)
      (host : s.env.host = .present p w :: rest) (decoded : decode (.command p w) = .ok i)
      (ht : exec i s.tick.popHost = .next t)
  | wait (ready : Ready s) (ht : t = s.tick)

theorem step_cases {s t : State} (h : step s = .next t) : StepCase s t := by
  obtain ⟨hm, ht⟩ | ⟨hm, ht⟩ | ⟨hm, ht⟩ | ⟨hm, ht⟩ | ⟨c, hm, ht⟩ | ⟨a, b, hm, ht⟩ | ⟨p, w, i, hm, hi, ht⟩ | ⟨hm, ht⟩ :=
    step_next h
  · exact .reset (fits_of_move hm) ht
  · obtain ⟨hrst, hbusy⟩ := fits_of_move hm
    exact .i2c hrst hbusy ht
  · obtain ⟨hidle, hw⟩ := fits_of_move hm
    exact .primWait hidle hw ht
  · obtain ⟨hidle, _, hbusy⟩ := fits_of_move hm
    exact .uart hidle hbusy ht
  · obtain ⟨hready, rest, hcalls⟩ := fits_of_move hm
    exact .primCall c rest hready hcalls ht
  · obtain ⟨hready, rest, hhost⟩ := fits_of_move hm
    exact .fill a b rest hready hhost ht
  · obtain ⟨hready, _, rest, hhost⟩ := fits_of_move hm
    exact .command p w i rest hready hhost hi ht
  · exact .wait (fits_of_move hm) ht

theorem step_of_reset {s : State} (hcfg : configLegal s.cfg = true) (hrst : s.rstDue = true) :
    step s = .next s.resetEvent := by
  simp only [step, move_eq_reset hcfg hrst]

theorem step_of_i2c_busy {s : State} (hcfg : configLegal s.cfg = true) (hrst : s.rstDue = false)
    (hph : s.i2c.ph ≠ .idle) : step s = i2cUnitStep s.tick := by
  simp only [step, move_eq_i2c hcfg hrst hph]

theorem step_of_uart_busy {s : State} (hcfg : configLegal s.cfg = true) (hrst : s.rstDue = false)
    (hph : s.i2c.ph = .idle) (hw : s.i2c.w = false) (huart : s.uart.ph ≠ .idle) : step s = uartUnitStep s.tick := by
  simp only [step, move_eq_uart hcfg hrst hph hw huart]

theorem step_of_primCall {s : State} (h : Ready s) {c : BitVec 2} {rest : List (BitVec 2)}
    (hprim : s.env.primCalls = c :: rest) : step s = exec (decodeCond c) s.tick.popPrim := by
  simp only [step, move_eq_primCall h hprim]

theorem step_of_command {s : State} (h : Ready s) (hprim : s.env.primCalls = []) {p : Port} {w : Word48}
    {rest : List HostAction} (hhost : s.env.host = .present p w :: rest) : step s = execWord p w s.tick.popHost := by
  simp only [step, move_eq_command h hprim hhost]

theorem execWord_of_decode {p : Port} {w : Word48} {i : Instr} (h : decode (.command p w) = .ok i) (s : State) :
    execWord p w s = exec i s := by
  simp only [execWord, h]

theorem rstDue_of_noRst {s : State} (h : s.env.rst = []) : s.rstDue = false := by
  simp [State.rstDue, h]

/-! ### The environment's move -/

section Tick

variable (s : State)

@[simp] theorem tick_twScript : s.tick.env.twScript = s.env.twScript := by
  obtain ⟨_, _, _, _, _, _, _, _, _, _, h, _⟩ := tick_frame s
  exact h

@[simp] theorem tick_brr : s.tick.tw.brr = s.tw.brr := by
  obtain ⟨_, _, _, _, _, _, _, _, _, _, _, h, _⟩ := tick_frame s
  exact h

end Tick

/-! ### The step of the I2C unit -/

/-- A waited phase is neither IDLE nor STOP (R27). -/
theorem waited_iff (p : Phase) : p.waited = true ↔ p ≠ .idle ∧ p ≠ .stop := by
  cases p <;> simp [Phase.waited]

/-- An issue step, a poll or a completion step with its outcome, the STOP step, or no step at all: the rows of table R150. -/
inductive I2cStepCase (s t : State) : Prop
  | stay (noStep : s.i2c.ph = .idle ∨ (s.i2c.w = true ∧ s.tw.cf = false)) (ht : t = s)
  | stop (phase : s.i2c.ph = .stop) (ht : t = s.stopStep)
  | issue (phase : s.i2c.ph.waited = true) (notWaiting : s.i2c.w = false) (ht : t = s.issueStep)
  | continue_ (q : Phase) (enabled : Completing s) (outcome : outcomeNow s = .continue_)
      (next : nextPhase s.i2c.op s.i2c.ph = some q) (ht : t = completedAs s { latched s with ph := q })
  | success (enabled : Completing s) (outcome : outcomeNow s = .success)
      (ht : t = completedAs s { latched s with
        rdata := if s.i2c.ph = .rdata then s.tw.dr else s.i2c.rdata, ok := true, cause := .ok, ph := .stop })
  | abort (enabled : Completing s) (outcome : outcomeNow s = .raise .protocol)
      (ht : t = completedAs s { latched s with cause := .protocol, ph := .stop })
  | retry (e : Event) (enabled : Completing s) (outcome : outcomeNow s = .raise e) (retryable : e ≠ .protocol)
      (below : s.i2c.n < Config.retries)
      (ht : t = completedAs s { latched s with cause := causeOf e, n := s.i2c.n + 1#3, ph := .start })
  | exhaustStop (e : Event) (enabled : Completing s) (outcome : outcomeNow s = .raise e) (retryable : e ≠ .protocol)
      (atBound : ¬ s.i2c.n < Config.retries) (withStop : s.cfg.stopOnExhaustion = true)
      (ht : t = completedAs s { latched s with cause := causeOf e, exh := true, ph := .stop })
  | exhaust (e : Event) (enabled : Completing s) (outcome : outcomeNow s = .raise e) (retryable : e ≠ .protocol)
      (atBound : ¬ s.i2c.n < Config.retries) (withoutStop : s.cfg.stopOnExhaustion = false)
      (ht : t = { completedAs s { latched s with cause := causeOf e, exh := true, done := true, ph := .idle } with
        wire := { s.wire with isOpen := s.openAfterExhaustion (causeOf e) }
        env := { s.env with openScript := s.env.openScript.tail } })

theorem i2cStep_cases {s t : State} (h : i2cUnitStep s = .next t) : I2cStepCase s t := by
  obtain ⟨hph, ht⟩ | ⟨hph, ht⟩ | ⟨h1, h2, hw, ht⟩ | ⟨_, _, hw, hcf, ht⟩ | ⟨h1, h2, hw, hcf, ht⟩ := i2cUnitStep_next h
  · exact .stay (.inl hph) ht
  · exact .stop hph ht
  · exact .issue ((waited_iff _).mpr ⟨h1, h2⟩) hw ht
  · exact .stay (.inr ⟨hw, hcf⟩) ht
  · have hs : Completing s := ⟨(waited_iff _).mpr ⟨h1, h2⟩, hw, hcf⟩
    obtain ⟨q, hd, hq, ht⟩ | ⟨hd, ht⟩ | ⟨e, hd, ht⟩ := applyOutcome_next ht
    · exact .continue_ q hs hd hq ht
    · exact .success hs hd ht
    · obtain ⟨rfl, he⟩ | ⟨hne, hn, he⟩ | ⟨hne, hn, he⟩ := takeEvent_cases s.complete e
      · exact .abort hs hd (ht.trans he)
      · exact .retry e hs hd hne hn (ht.trans he)
      · obtain ⟨hstop, hx⟩ | ⟨hstop, hx⟩ := exhaust_cases s.complete (causeOf e)
        · exact .exhaustStop e hs hd hne hn hstop (ht.trans (he.trans hx))
        · exact .exhaust e hs hd hne hn hstop (ht.trans (he.trans hx))

/-- With the wait bit clear the issue step of a waited phase loads and requests (R145). -/
theorem issueStep_of_not_waiting {s : State} (hw : s.i2c.w = false) :
    s.issueStep = s.loadPhase.issue (condOf s.i2c.ph) := by
  have hload : s.loadPhase.i2c.w = false := by
    obtain ⟨_, h⟩ | ⟨b, _, h⟩ := loadPhase_cases s
    · rw [h, hw]
    · rw [h, engWriteDr_i2c, hw]
  simp [State.issueStep, State.waitedCond, hload]

/-- The load of a phase as one equation: `tw.dr` and the trace (R145, R148). -/
theorem loadPhase_eq (s : State) :
    s.loadPhase = { s with
      tw := { s.tw with dr := (loadOf s.i2c s.i2c.ph).getD s.tw.dr }
      i2cTrace := s.i2cTrace ++ ((loadOf s.i2c s.i2c.ph).map I2cEvent.wrDr).toList } := by
  obtain ⟨hl, h⟩ | ⟨b, hl, h⟩ := loadPhase_cases s
  · simp [h, hl]
  · rw [h, hl]
    rfl

/-- The issue step of a waited phase, everything it changes written out (R145). -/
theorem issueStep_eq {s : State} (hw : s.i2c.w = false) :
    s.issueStep = { s with
      i2c := { s.i2c with w := true }
      tw := { s.tw with
        dr := (loadOf s.i2c s.i2c.ph).getD s.tw.dr, cond := condCode (condOf s.i2c.ph), cf := false, status := s.freeAt 0 8 }
      env := { s.env with twCur := operationOf (condOf s.i2c.ph) s.env.twScript, twScript := s.env.twScript.tail }
      i2cTrace := s.i2cTrace ++ ((loadOf s.i2c s.i2c.ph).map I2cEvent.wrDr).toList ++ [.req (condOf s.i2c.ph)]
      free := s.free + 1 } := by
  rw [issueStep_of_not_waiting hw, loadPhase_eq]
  rfl

theorem i2cUnitStep_of_issue {s : State} (hph : s.i2c.ph.waited = true) (hw : s.i2c.w = false) :
    i2cUnitStep s = .next s.issueStep := by
  obtain ⟨h1, h2⟩ := (waited_iff _).mp hph
  unfold i2cUnitStep
  split
  · contradiction
  · contradiction
  · simp [hw]

/-! ### Commands of a port -/

theorem decode_uart {w : Word48} (hz : zeroField w = 0#6) : decode (.command .uart w) = .ok (decodeUart w) := by
  simp [decode, decodeWord, hz]

/-- A word of either port that decodes has a `zero` field of 0 and the instruction of its port (R80, R83, R87). -/
theorem decode_command_eq_ok {p : Port} {w : Word48} {i : Instr} (h : decode (.command p w) = .ok i) :
    zeroField w = 0#6 ∧ ((p = .i2c ∧ i = decodeI2c w) ∨ (p = .uart ∧ i = decodeUart w)) := by
  simp only [decode, decodeWord] at h
  split at h
  · cases h
  · next hz =>
    refine ⟨not_not.mp hz, ?_⟩
    cases p with
    | i2c => exact .inl ⟨rfl, (Except.ok.inj h).symm⟩
    | uart => exact .inr ⟨rfl, (Except.ok.inj h).symm⟩

theorem execI2cInit_next {s t : State} (h : execI2cInit s = .next t) :
    s.i2c.ph = .idle ∧
      t = { s.engWriteBrr (bitRate s.cfg) with i2c := { s.i2c with inited := true, done := true } } := by
  unfold execI2cInit at h
  split_ifs at h with hidle _
  exact ⟨not_not.mp hidle, (Host.Outcome.next.inj h).symm⟩

/-- An accepted word of the I2C port is `I2C.INIT` or a transaction (R140, R143). -/
inductive I2cAccept (w : Word48) (s t : State) : Prop
  | init (word : decodeI2c w = .i2cInit) (idle : s.i2c.ph = .idle)
      (ht : t = { s.engWriteBrr (bitRate s.cfg) with i2c := { s.i2c with inited := true, done := true } })
  | transaction (op : BitVec 2) (dev daddr : Byte) (addr : Half) (v : Byte) (opcode : op = 1#2 ∨ op = 2#2)
      (idle : s.i2c.ph = .idle) (inited : s.i2c.inited = true)
      (ht : t = { s with i2c := acceptedI2c s.i2c op dev daddr addr v })

theorem exec_decodeI2c_cases {w : Word48} {s t : State} (h : exec (decodeI2c w) s = .next t) : I2cAccept w s t := by
  have transaction {op : BitVec 2} {dev daddr : Byte} {addr : Half} {v : Byte} (hop : op = 1#2 ∨ op = 2#2)
      (ha : acceptTransaction op dev daddr addr v s = .next t) : I2cAccept w s t := by
    obtain ⟨hidle, hinit, ht⟩ := acceptTransaction_next ha
    exact .transaction op dev daddr addr v hop hidle hinit ht
  unfold decodeI2c at h
  split_ifs at h with h0 h1 h2
  · obtain ⟨hidle, ht⟩ := execI2cInit_next h
    exact .init (if_pos h0) hidle ht
  · exact transaction (.inl rfl) h
  · exact transaction (.inr rfl) h
  · cases h

theorem execUartInit_next {s t : State} {baud : BitVec 32} {fmt : Byte} (h : execUartInit baud fmt s = .next t) :
    s.uart.ph = .idle ∧ t = { s.uartProgram (baudDivisor s.cfg baud) (frameFormat s.cfg fmt) with
      uart := { s.uart with op := 0#2, baud := baud, fmt := fmt, inited := true, done := true } } := by
  unfold execUartInit at h
  split_ifs at h with hidle _
  exact ⟨not_not.mp hidle, (Host.Outcome.next.inj h).symm⟩

/-- An accepted word of the UART port: `UART.INIT`, or a transfer that changes only the unit's own registers (R191 to
R197). -/
inductive UartAccept (w : Word48) (s t : State) : Prop
  | init (baud : BitVec 32) (fmt : Byte) (word : decodeUart w = .uartInit baud fmt) (idle : s.uart.ph = .idle)
      (ht : t = { s.uartProgram (baudDivisor s.cfg baud) (frameFormat s.cfg fmt) with
        uart := { s.uart with op := 0#2, baud := baud, fmt := fmt, inited := true, done := true } })
  | txByte (byte : Byte) (idle : s.uart.ph = .idle) (inited : s.uart.inited = true)
      (ht : t = { s with uart := { s.uart with op := 1#2, done := false, byte := byte, len := 1#16, idx := 0#16, ph := .txw } })
  | txEmpty (base : Half) (idle : s.uart.ph = .idle) (inited : s.uart.inited = true)
      (ht : t = { s with uart := { s.uart with op := 2#2, done := true, bufp := base, len := 0#16, idx := 0#16 } })
  | txBuffer (base len : Half) (idle : s.uart.ph = .idle) (inited : s.uart.inited = true)
      (fits : base.toNat + len.toNat ≤ 65536) (nonempty : len ≠ 0#16)
      (ht : t = { s with uart := { s.uart with op := 2#2, done := false, bufp := base, len := len, idx := 0#16, ph := .txw } })
  | rxByte (idle : s.uart.ph = .idle) (inited : s.uart.inited = true)
      (ht : t = { s with uart := { s.uart with op := 3#2, done := false, ph := .rxw } })

theorem exec_decodeUart_cases {w : Word48} {s t : State} (h : exec (decodeUart w) s = .next t) : UartAccept w s t := by
  unfold decodeUart at h
  split_ifs at h with h0 h1 h2
  · obtain ⟨hidle, ht⟩ := execUartInit_next h
    exact .init _ _ (if_pos h0) hidle ht
  · obtain ⟨hidle, hinit, ht⟩ := acceptTransfer_next h
    exact .txByte _ hidle hinit (Host.Outcome.next.inj ht).symm
  · obtain ⟨hidle, hinit, ht⟩ := acceptTransfer_next h
    split_ifs at ht with hfits hlen
    · rw [hlen] at ht
      exact .txEmpty _ hidle hinit (Host.Outcome.next.inj ht).symm
    · have hinside := (bufferFits_iff _ _).mp (by simpa using hfits)
      exact .txBuffer _ _ hidle hinit hinside hlen (Host.Outcome.next.inj ht).symm
  · obtain ⟨hidle, hinit, ht⟩ := acceptTransfer_next h
    exact .rxByte hidle hinit (Host.Outcome.next.inj ht).symm

end Sys2Proof.Machine
end

section
/-! The invariant of the block: it holds after reset, every step keeps it, and it shuts out both faults
(spec/42_i2c_transactions.md, invariants during a command; spec/43_uart.md; spec/60_exceptions.md R236). -/

namespace Sys2Proof.Machine

/-! ### The I2C unit -/

theorem maskStatus_idem (b : Byte) : maskStatus (maskStatus b) = maskStatus b := by
  simp [maskStatus, BitVec.and_assoc]

theorem maskStatus_zero : maskStatus 0#8 = 0#8 := by decide

theorem zero_le_retries : 0#3 ≤ Config.retries := by decide

/-- The next phase of R147 fits the opcode. -/
theorem opFits_next {op : BitVec 2} {p q : Phase} (hop : opFits op p = true) (hq : nextPhase op p = some q) :
    opFits op q = true := by
  revert hop hq
  revert op
  cases p <;> cases q <;> decide

/-- A command in progress is a transaction (R142). -/
theorem opcode_of_opFits {op : BitVec 2} {p : Phase} (h : opFits op p = true) (hp : p ≠ .idle) :
    op = 1#2 ∨ op = 2#2 := by
  cases p <;> simp_all [opFits]

/-- START and STOP belong to either transaction (R142). -/
theorem opFits_start_stop {op : BitVec 2} (h : op = 1#2 ∨ op = 2#2) :
    opFits op .start = true ∧ opFits op .stop = true := by
  obtain rfl | rfl := h <;> decide

section I2c

variable {c : Config} {u : I2cUnit} (h : I2cInv c u)
include h

/-- In a waited phase neither result flag is set yet (R149). -/
theorem I2cInv.flags_clear (hph : u.ph.waited = true) : u.ok = false ∧ u.exh = false := by
  obtain ⟨h1, h2⟩ := (waited_iff _).mp hph
  refine ⟨Bool.eq_false_of_not_eq_true fun hok => ?_, Bool.eq_false_of_not_eq_true fun hexh => ?_⟩
  · simp [h.okLate hok] at hph
  · obtain hidle | ⟨hstop, _⟩ := h.exhLate hexh
    · exact h1 hidle
    · exact h2 hstop

theorem I2cInv.opcode_of_busy (hph : u.ph ≠ .idle) : u.op = 1#2 ∨ u.op = 2#2 := opcode_of_opFits h.opcode hph

theorem I2cInv.issued (hph : u.ph.waited = true) : I2cInv c { u with w := true } :=
  { h with waitBit := fun _ => hph }

/-- A status is latched and the wait bit cleared (R28, R104). -/
theorem I2cInv.latched (raw : Byte) : I2cInv c { u with st := maskStatus raw, w := false } :=
  { h with waitBit := nofun, latch := maskStatus_idem raw }

theorem I2cInv.continued {q : Phase} (hph : u.ph.waited = true) (hw : u.w = false) (hq : nextPhase u.op u.ph = some q) :
    I2cInv c { u with ph := q } := by
  obtain ⟨hok, hexh⟩ := h.flags_clear hph
  obtain ⟨hidle, _⟩ := (waited_iff _).mp hph
  exact
    { counter := h.counter, latch := h.latch, opcode := opFits_next h.opcode hq, okCause := h.okCause
      waitBit := by simp [hw], okLate := by simp [hok], exhLate := by simp [hexh]
      booted := fun _ => h.booted hidle, notDone := fun _ => h.notDone hidle }

/-- SUCCESS leads to phase STOP with `ok` (R155, R158). -/
theorem I2cInv.succeeded (hph : u.ph.waited = true) (hw : u.w = false) (r : Byte) :
    I2cInv c { u with rdata := r, ok := true, cause := .ok, ph := .stop } := by
  obtain ⟨_, hexh⟩ := h.flags_clear hph
  obtain ⟨hidle, _⟩ := (waited_iff _).mp hph
  obtain ⟨_, hop⟩ := opFits_start_stop (h.opcode_of_busy hidle)
  exact
    { counter := h.counter, latch := h.latch, opcode := hop, okCause := fun _ => ⟨hexh, rfl⟩
      waitBit := by simp [hw], okLate := fun _ => rfl, exhLate := by simp [hexh]
      booted := fun _ => h.booted hidle, notDone := fun _ => h.notDone hidle }

theorem I2cInv.aborted (hph : u.ph.waited = true) (hw : u.w = false) :
    I2cInv c { u with cause := .protocol, ph := .stop } := by
  obtain ⟨hok, hexh⟩ := h.flags_clear hph
  obtain ⟨hidle, _⟩ := (waited_iff _).mp hph
  obtain ⟨_, hop⟩ := opFits_start_stop (h.opcode_of_busy hidle)
  exact
    { counter := h.counter, latch := h.latch, opcode := hop, okCause := by simp [hok]
      waitBit := by simp [hw], okLate := fun _ => rfl, exhLate := by simp [hexh]
      booted := fun _ => h.booted hidle, notDone := fun _ => h.notDone hidle }

/-- A retry below the bound leaves the counter at most at the bound (R25, R160). -/
theorem I2cInv.retried (hph : u.ph.waited = true) (hw : u.w = false) (hn : u.n < Config.retries) (k : Cause) :
    I2cInv c { u with cause := k, n := u.n + 1#3, ph := .start } := by
  obtain ⟨hok, hexh⟩ := h.flags_clear hph
  obtain ⟨hidle, _⟩ := (waited_iff _).mp hph
  obtain ⟨hop, _⟩ := opFits_start_stop (h.opcode_of_busy hidle)
  have hcounter : u.n + 1#3 ≤ Config.retries := by
    unfold Config.retries at hn ⊢
    bv_omega
  exact
    { counter := hcounter, latch := h.latch, opcode := hop, okCause := by simp [hok]
      waitBit := by simp [hw], okLate := by simp [hok], exhLate := by simp [hexh]
      booted := fun _ => h.booted hidle, notDone := fun _ => h.notDone hidle }

theorem I2cInv.exhaustedStop (hph : u.ph.waited = true) (hw : u.w = false) (hstop : c.stopOnExhaustion = true)
    (k : Cause) : I2cInv c { u with cause := k, exh := true, ph := .stop } := by
  obtain ⟨hok, _⟩ := h.flags_clear hph
  obtain ⟨hidle, _⟩ := (waited_iff _).mp hph
  obtain ⟨_, hop⟩ := opFits_start_stop (h.opcode_of_busy hidle)
  exact
    { counter := h.counter, latch := h.latch, opcode := hop, okCause := by simp [hok]
      waitBit := by simp [hw], okLate := fun _ => rfl, exhLate := fun _ => .inr ⟨rfl, hstop⟩
      booted := fun _ => h.booted hidle, notDone := fun _ => h.notDone hidle }

theorem I2cInv.exhausted (hph : u.ph.waited = true) (hw : u.w = false) (k : Cause) :
    I2cInv c { u with cause := k, exh := true, done := true, ph := .idle } := by
  obtain ⟨hok, _⟩ := h.flags_clear hph
  exact
    { counter := h.counter, latch := h.latch, opcode := rfl, okCause := by simp [hok]
      waitBit := by simp [hw], okLate := fun _ => rfl, exhLate := fun _ => .inl rfl
      booted := by simp, notDone := by simp }

/-- The STOP step completes the command; its phase is not waited for, so the wait bit is clear (R159). -/
theorem I2cInv.stopped (hph : u.ph = .stop) : I2cInv c { u with st := 0#8, done := true, ph := .idle } := by
  have hw : u.w = false := Bool.eq_false_of_not_eq_true fun hw => by simpa [hph, Phase.waited] using h.waitBit hw
  exact
    { counter := h.counter, latch := maskStatus_zero, opcode := rfl, okCause := h.okCause
      waitBit := by simp [hw], okLate := fun _ => rfl, exhLate := fun _ => .inl rfl
      booted := by simp, notDone := by simp }

/-- `I2C.INIT` on an idle unit (R140). -/
theorem I2cInv.initialised (hph : u.ph = .idle) : I2cInv c { u with inited := true, done := true } :=
  { h with booted := fun _ => rfl, notDone := fun hbusy => absurd hph hbusy }

theorem I2cInv.accepted {op : BitVec 2} (hop : op = 1#2 ∨ op = 2#2) (hinit : u.inited = true) (dev daddr : Byte)
    (addr : Half) (v : Byte) : I2cInv c (acceptedI2c u op dev daddr addr v) :=
  { counter := zero_le_retries, latch := h.latch, opcode := (opFits_start_stop hop).1
    waitBit := nofun, okLate := nofun, exhLate := nofun, okCause := nofun
    booted := fun _ => hinit, notDone := fun _ => rfl }

end I2c

/-- The I2C unit after `rst`: the invariant asks nothing of a free value but the three low bits of the latch (R28, R260). -/
theorem i2cInv_afterRst (c : Config) (s : State) : I2cInv c s.i2cAfterRst :=
  { counter := zero_le_retries, latch := maskStatus_idem _, opcode := rfl
    waitBit := nofun, okLate := nofun, exhLate := nofun, okCause := nofun, booted := nofun, notDone := nofun }

/-- Every step of the I2C unit keeps its invariant: one case per row of table R150. -/
theorem i2cUnitStep_keeps_i2cInv {s t : State} (h : I2cInv s.cfg s.i2c) (ht : i2cUnitStep s = .next t) :
    I2cInv s.cfg t.i2c := by
  have hlatch : I2cInv s.cfg (latched s) := h.latched s.tw.status
  cases i2cStep_cases ht with
  | stay _ ht => exact ht ▸ h
  | stop hph ht => exact ht ▸ h.stopped hph
  | issue hph hw ht => exact ht.trans (issueStep_eq hw) ▸ h.issued hph
  | continue_ q hs _ hq ht => exact ht ▸ hlatch.continued hs.phase rfl hq
  | success hs _ ht => exact ht ▸ hlatch.succeeded hs.phase rfl _
  | abort hs _ ht => exact ht ▸ hlatch.aborted hs.phase rfl
  | retry e hs _ _ hn ht => exact ht ▸ hlatch.retried hs.phase rfl hn _
  | exhaustStop e hs _ _ _ hstop ht => exact ht ▸ hlatch.exhaustedStop hs.phase rfl hstop _
  | exhaust e hs _ _ _ _ ht => exact ht ▸ hlatch.exhausted hs.phase rfl _

/-! ### The UART unit -/

/-- A unit that is not transmitting need only be booted and not done while it is busy (R191). -/
theorem uartInv_of_not_txw {u : UartUnit} (htx : u.ph ≠ .txw) (hboot : u.ph ≠ .idle → u.inited = true)
    (hdone : u.ph ≠ .idle → u.done = false) : UartInv u :=
  { left := fun hp => absurd hp htx, opcode := fun hp => absurd hp htx, inside := fun hp => absurd hp htx
    booted := hboot, notDone := hdone }

theorem uartInv_of_idle {u : UartUnit} (hph : u.ph = .idle) : UartInv u :=
  uartInv_of_not_txw (by simp [hph]) (fun hp => absurd hph hp) (fun hp => absurd hph hp)

/-- With a byte left the index does not wrap (R196). -/
theorem idx_succ_toNat {u : UartUnit} (hleft : u.idx.toNat < u.len.toNat) : (u.idx + 1#16).toNat = u.idx.toNat + 1 := by
  bv_omega

theorem sentUart_of_last {u : UartUnit} (h : u.idx.toNat + 1 = u.len.toNat) :
    sentUart u = { u with idx := u.idx + 1#16, done := true, ph := .idle } := if_pos h

theorem sentUart_of_not_last {u : UartUnit} (h : u.idx.toNat + 1 ≠ u.len.toNat) :
    sentUart u = { u with idx := u.idx + 1#16 } := if_neg h

theorem UartInv.sent {u : UartUnit} (h : UartInv u) (hph : u.ph = .txw) : UartInv (sentUart u) := by
  by_cases hlast : u.idx.toNat + 1 = u.len.toNat
  · rw [sentUart_of_last hlast]
    exact uartInv_of_idle rfl
  · have hleft := h.left hph
    have hidx : (u.idx + 1#16).toNat < u.len.toNat := by
      have := idx_succ_toNat hleft
      omega
    rw [sentUart_of_not_last hlast]
    exact { h with left := fun _ => hidx }

/-- Every step of the UART unit keeps its invariant: one case per row of table R199. -/
theorem uartUnitStep_keeps_uartInv {s t : State} (h : UartInv s.uart) (ht : uartUnitStep s = .next t) :
    UartInv t.uart := by
  obtain ⟨_, rfl⟩ | ⟨_, _, rfl⟩ | ⟨b, hph, _, _, rfl⟩ | ⟨_, _, rfl⟩ | ⟨_, _, rfl⟩ := uartUnitStep_next ht
  · exact h
  · exact h
  · exact h.sent hph
  · exact h
  · exact uartInv_of_idle rfl

/-! ### What the units' steps and commands leave alone -/

theorem sameUartSide_refl (s : State) : SameUartSide s s := ⟨rfl, rfl, rfl, rfl, rfl⟩

theorem sameI2cSide_refl (s : State) : SameI2cSide s s := ⟨rfl, rfl, rfl, rfl, rfl, rfl⟩

/-- R2, R20 for a step of the I2C unit. -/
theorem i2cUnitStep_sameUartSide {s t : State} (ht : i2cUnitStep s = .next t) : SameUartSide s t := by
  cases i2cStep_cases ht with
  | stay _ ht => exact ht ▸ sameUartSide_refl s
  | issue _ hw ht => exact ht.trans (issueStep_eq hw) ▸ ⟨rfl, rfl, rfl, rfl, rfl⟩
  | stop _ ht | continue_ _ _ _ _ ht | success _ _ ht | abort _ _ ht | retry _ _ _ _ _ ht
  | exhaustStop _ _ _ _ _ _ ht | exhaust _ _ _ _ _ _ ht => exact ht ▸ ⟨rfl, rfl, rfl, rfl, rfl⟩

/-- The I2C unit takes nothing from the lists of the host, of the exposed primitive and of the reset (R236). -/
theorem i2cUnitStep_env {s t : State} (ht : i2cUnitStep s = .next t) :
    t.env.host = s.env.host ∧ t.env.primCalls = s.env.primCalls ∧ t.env.rst = s.env.rst := by
  cases i2cStep_cases ht with
  | stay _ ht => exact ht ▸ ⟨rfl, rfl, rfl⟩
  | issue _ hw ht => exact ht.trans (issueStep_eq hw) ▸ ⟨rfl, rfl, rfl⟩
  | stop _ ht | continue_ _ _ _ _ ht | success _ _ ht | abort _ _ ht | retry _ _ _ _ _ ht
  | exhaustStop _ _ _ _ _ _ ht | exhaust _ _ _ _ _ _ ht => exact ht ▸ ⟨rfl, rfl, rfl⟩

/-- R2, R20 for a step of the UART unit, which also takes nothing from the environment's lists (R236). -/
theorem uartUnitStep_sameI2cSide {s t : State} (ht : uartUnitStep s = .next t) : SameI2cSide s t ∧ t.env = s.env := by
  obtain ⟨_, rfl⟩ | ⟨_, _, rfl⟩ | ⟨b, _, _, _, rfl⟩ | ⟨_, _, rfl⟩ | ⟨_, _, rfl⟩ := uartUnitStep_next ht <;>
    exact ⟨⟨rfl, rfl, rfl, rfl, rfl, rfl⟩, rfl⟩

theorem I2cAccept.sameUartSide {w : Word48} {s t : State} (h : I2cAccept w s t) :
    SameUartSide s t ∧ t.env = s.env := by
  cases h with
  | init _ _ ht | transaction _ _ _ _ _ _ _ _ ht => exact ht ▸ ⟨⟨rfl, rfl, rfl, rfl, rfl⟩, rfl⟩

theorem UartAccept.sameI2cSide {w : Word48} {s t : State} (h : UartAccept w s t) :
    SameI2cSide s t ∧ t.env = s.env := by
  cases h with
  | init _ _ _ _ ht =>
    rw [uartProgram_eq] at ht
    exact ht ▸ ⟨⟨rfl, rfl, rfl, rfl, rfl, rfl⟩, rfl⟩
  | txByte _ _ _ ht | txEmpty _ _ _ ht | txBuffer _ _ _ _ _ _ ht | rxByte _ _ ht =>
    exact ht ▸ ⟨⟨rfl, rfl, rfl, rfl, rfl, rfl⟩, rfl⟩

/-! ### Commands -/

theorem I2cAccept.keeps_i2cInv {w : Word48} {s t : State} (h : I2cInv s.cfg s.i2c) (ha : I2cAccept w s t) :
    I2cInv s.cfg t.i2c := by
  cases ha with
  | init _ hidle ht => exact ht ▸ h.initialised hidle
  | transaction op dev daddr addr v hop _ hinit ht => exact ht ▸ h.accepted hop hinit dev daddr addr v

theorem UartAccept.uartInv {w : Word48} {s t : State} (ha : UartAccept w s t) : UartInv t.uart := by
  cases ha with
  | init _ _ _ hidle ht => exact ht ▸ uartInv_of_idle hidle
  | txEmpty _ hidle _ ht => exact ht ▸ uartInv_of_idle hidle
  | txByte byte _ hinit ht =>
    exact ht ▸
      { left := fun _ => Nat.zero_lt_one, opcode := fun _ => .inl rfl, inside := fun _ hop => by cases hop
        booted := fun _ => hinit, notDone := fun _ => rfl }
  | txBuffer base len _ hinit hfits hlen ht =>
    have hpos : 0 < len.toNat := Nat.pos_of_ne_zero fun h0 => hlen (BitVec.eq_of_toNat_eq h0)
    exact ht ▸
      { left := fun _ => hpos, opcode := fun _ => .inr rfl, inside := fun _ _ => hfits
        booted := fun _ => hinit, notDone := fun _ => rfl }
  | rxByte _ hinit ht => exact ht ▸ uartInv_of_not_txw nofun (fun _ => hinit) (fun _ => rfl)

/-! ### The block -/

section Block

variable {s t : State}

/-- While the UART unit is idle, what keeps its side keeps the invariant of the block if it keeps that of the I2C unit. -/
theorem Inv.of_sameUartSide (h : Inv s) (hidle : s.uart.ph = .idle) (hside : SameUartSide s t)
    (hprim : t.env.primCalls = s.env.primCalls) (hi2c : I2cInv s.cfg t.i2c) : Inv t := by
  obtain ⟨hcfg, huart, _, _, hmem⟩ := hside
  exact ⟨hcfg ▸ hi2c, huart ▸ h.uart, .inr (huart ▸ hidle), hmem ▸ h.buffer, hprim ▸ h.notExposed⟩

/-- While the I2C unit is idle, what keeps its side keeps the invariant of the block if it keeps that of the UART unit. -/
theorem Inv.of_sameI2cSide (h : Inv s) (hidle : s.i2c.ph = .idle) (hside : SameI2cSide s t)
    (hprim : t.env.primCalls = s.env.primCalls) (huart : UartInv t.uart) : Inv t := by
  obtain ⟨hcfg, hi2c, _, _, _, hmem⟩ := hside
  exact ⟨hcfg ▸ hi2c ▸ h.i2c, huart, .inl (hi2c ▸ hidle), hmem ▸ h.buffer, hprim ▸ h.notExposed⟩

/-- The invariant speaks of nothing the environment moves before a step. -/
theorem Inv.tick (h : Inv s) : Inv s.tick :=
  ⟨by simpa using h.i2c, by simpa using h.uart, by simpa using h.oneCommand, by simpa using h.buffer,
    by simpa using h.notExposed⟩

theorem Inv.popHost (h : Inv s) : Inv s.popHost := ⟨h.i2c, h.uart, h.oneCommand, h.buffer, h.notExposed⟩

theorem Inv.fillBuffer (h : Inv s) (a : Half) (b : Byte) : Inv (s.fillBuffer a b) :=
  { h with buffer := memSet_wf s.mem h.buffer a b }

theorem Inv.resetEvent (h : Inv s) : Inv s.resetEvent :=
  ⟨i2cInv_afterRst s.cfg s, uartInv_of_idle rfl, .inl rfl, h.buffer, h.notExposed⟩

theorem Inv.uart_idle_of_i2c_busy (h : Inv s) (hbusy : s.i2c.ph ≠ .idle) : s.uart.ph = .idle :=
  h.oneCommand.resolve_left hbusy

/-- The wait bit is 1 in no idle unit (R27). -/
theorem Inv.not_waiting_of_idle (h : Inv s) (hidle : s.i2c.ph = .idle) : s.i2c.w = false :=
  Bool.eq_false_of_not_eq_true fun hw => by simpa [hidle, Phase.waited] using h.i2c.waitBit hw

theorem Inv.i2cUnitStep (h : Inv s) (hbusy : s.i2c.ph ≠ .idle) (ht : i2cUnitStep s = .next t) : Inv t := by
  obtain ⟨_, hprim, _⟩ := i2cUnitStep_env ht
  exact h.of_sameUartSide (h.uart_idle_of_i2c_busy hbusy) (i2cUnitStep_sameUartSide ht) hprim
    (i2cUnitStep_keeps_i2cInv h.i2c ht)

theorem Inv.uartUnitStep (h : Inv s) (hidle : s.i2c.ph = .idle) (ht : uartUnitStep s = .next t) : Inv t := by
  obtain ⟨hside, henv⟩ := uartUnitStep_sameI2cSide ht
  exact h.of_sameI2cSide hidle hside (by rw [henv]) (uartUnitStep_keeps_uartInv h.uart ht)

/-- A command accepted while both units are idle keeps the invariant (R143, R191, R236). -/
theorem Inv.exec_command (h : Inv s) (hidle : s.i2c.ph = .idle) (huart : s.uart.ph = .idle) {p : Port} {w : Word48}
    {i : Instr} (hi : decode (.command p w) = .ok i) (ht : exec i s = .next t) : Inv t := by
  obtain ⟨_, ⟨_, rfl⟩ | ⟨_, rfl⟩⟩ := decode_command_eq_ok hi
  · have ha := exec_decodeI2c_cases ht
    obtain ⟨hside, henv⟩ := ha.sameUartSide
    exact h.of_sameUartSide huart hside (by rw [henv]) (ha.keeps_i2cInv h.i2c)
  · have ha := exec_decodeUart_cases ht
    obtain ⟨hside, henv⟩ := ha.sameI2cSide
    exact h.of_sameI2cSide hidle hside (by rw [henv]) ha.uartInv

end Block

/-- Settles O3: the environment's move, and after it the move of each agent, keeps the invariant; an exposed primitive,
which could break it, is in no state that meets it. -/
theorem stepKeepsInvariant : Obligations.StepKeepsInvariant := by
  intro s t h hstep
  cases step_cases hstep with
  | reset _ ht => exact ht ▸ h.resetEvent
  | i2c _ hbusy ht => exact h.tick.i2cUnitStep (by simpa using hbusy) ht
  | primWait hidle hw _ => simp [h.not_waiting_of_idle hidle] at hw
  | uart hidle _ ht => exact h.tick.uartUnitStep (by simpa using hidle) ht
  | primCall c rest _ hcalls _ => simp [h.notExposed] at hcalls
  | fill a b rest _ _ ht => exact ht ▸ h.tick.popHost.fillBuffer a b
  | command p w i rest hready _ hi ht =>
    exact h.tick.popHost.exec_command (by simpa using hready.i2cIdle) (by simpa using hready.uartIdle) hi ht
  | wait _ ht => exact ht ▸ h.tick

/-- Settles O2: after reset both units are idle and every flag is clear. -/
theorem resetMeetsInvariant : Obligations.ResetMeetsInvariant := by
  intro c
  exact ⟨⟨zero_le_retries, nofun, maskStatus_zero, rfl, nofun, nofun, nofun, nofun, nofun⟩, uartInv_of_idle rfl, .inl rfl, rfl, rfl⟩

/-- Settles O1: every clause is a field of the reset state. -/
theorem resetValues : Obligations.ResetValues := by
  intro c
  exact ⟨rfl, rfl, rfl, rfl, rfl, rfl, rfl, rfl, rfl, rfl, rfl, rfl, rfl, rfl, rfl, rfl⟩

/-! ### No fault, no refusal of a command in progress -/

/-- With a transaction's opcode every outcome of a waited phase is a next state: CONTINUE has a next phase (R147). -/
theorem applyOutcome_answers {s : State} (hop : s.i2c.op = 1#2 ∨ s.i2c.op = 2#2) : ∃ t, applyOutcome s = .next t := by
  cases hd : decodeStatus s.cfg.codes s.i2c.ph s.i2c.st with
  | continue_ =>
    obtain ⟨q, hq⟩ := nextPhase_of_continue hop hd
    exact ⟨_, applyOutcome_of_continue hd hq⟩
  | success => exact ⟨s.succeed, by simp only [applyOutcome, hd]⟩
  | raise e => exact ⟨_, applyOutcome_of_raise hd⟩

theorem i2cUnitStep_of_poll {s : State} (hph : s.i2c.ph.waited = true) (hw : s.i2c.w = true) (hcf : s.tw.cf = false) :
    i2cUnitStep s = .next s := by
  obtain ⟨h1, h2⟩ := (waited_iff _).mp hph
  unfold i2cUnitStep
  split
  · contradiction
  · contradiction
  · simp [hw, completionStep, hcf]

/-- Under its invariant a busy I2C unit always has a step (R109, R147, R150). -/
theorem i2cUnitStep_answers {s : State} (h : I2cInv s.cfg s.i2c) (hbusy : s.i2c.ph ≠ .idle) :
    ∃ t, i2cUnitStep s = .next t := by
  by_cases hstop : s.i2c.ph = .stop
  · exact ⟨_, i2cUnitStep_of_stop hstop⟩
  · have hph := (waited_iff _).mpr ⟨hbusy, hstop⟩
    cases hw : s.i2c.w with
    | false => exact ⟨_, i2cUnitStep_of_issue hph hw⟩
    | true =>
      cases hcf : s.tw.cf with
      | false => exact ⟨_, i2cUnitStep_of_poll hph hw hcf⟩
      | true =>
        obtain ⟨t, ht⟩ := applyOutcome_answers (s := s.complete) (h.opcode_of_busy hbusy)
        exact ⟨t, (i2cUnitStep_of_completing ⟨hph, hw, hcf⟩).trans ht⟩

/-- The byte of the TXW step: under the invariant the buffer address is inside the buffer space (R70, R196). -/
theorem txByte_of_inv {s : State} (h : UartInv s.uart) (hph : s.uart.ph = .txw) :
    s.txByte = some (if s.uart.op = 1#2 then s.uart.byte else memGet s.mem (s.uart.bufp.toNat + s.uart.idx.toNat)) := by
  unfold State.txByte
  split_ifs with hop
  · rfl
  · have hinside := h.inside hph ((h.opcode hph).resolve_left hop)
    have hleft := h.left hph
    exact if_pos (by omega)

theorem uartUnitStep_of_txw_ready {s : State} {b : Byte} (hph : s.uart.ph = .txw) (hdre : s.ua.dre = true)
    (hb : s.txByte = some b) : uartUnitStep s = .next { s.engWriteTdr b with uart := sentUart s.uart } := by
  simp [uartUnitStep, hph, txwStep, hdre, hb]

theorem uartUnitStep_of_rxw_ready {s : State} (hph : s.uart.ph = .rxw) (hrxc : s.ua.rxc = true) :
    uartUnitStep s = .next { s.engReadRdr with uart := { s.uart with rx := s.ua.rdr, done := true, ph := .idle } } := by
  simp [uartUnitStep, hph, rxwStep, hrxc]

/-- A UART unit that waits for its flag has no step of its own (R196, R198; log 14). -/
theorem uartUnitStep_of_poll {s : State}
    (h : (s.uart.ph = .txw ∧ s.ua.dre = false) ∨ (s.uart.ph = .rxw ∧ s.ua.rxc = false)) :
    uartUnitStep s = .next s := by
  obtain ⟨hph, hflag⟩ | ⟨hph, hflag⟩ := h
  · simp [uartUnitStep, hph, txwStep, hflag]
  · simp [uartUnitStep, hph, rxwStep, hflag]

/-- Under its invariant the UART unit always has a step (R196, R198). -/
theorem uartUnitStep_answers {s : State} (h : UartInv s.uart) : ∃ t, uartUnitStep s = .next t := by
  cases hph : s.uart.ph with
  | idle => exact ⟨s, by simp only [uartUnitStep, hph]⟩
  | txw =>
    cases hdre : s.ua.dre with
    | false => exact ⟨s, uartUnitStep_of_poll (.inl ⟨hph, hdre⟩)⟩
    | true => exact ⟨_, uartUnitStep_of_txw_ready hph hdre (txByte_of_inv h hph)⟩
  | rxw =>
    cases hrxc : s.ua.rxc with
    | false => exact ⟨s, uartUnitStep_of_poll (.inr ⟨hph, hrxc⟩)⟩
    | true => exact ⟨_, uartUnitStep_of_rxw_ready hph hrxc⟩

/-! #### Commands never fault -/

theorem acceptTransaction_ne_fault (op : BitVec 2) (dev daddr : Byte) (addr : Half) (v : Byte) (s : State) (f : Fault) :
    acceptTransaction op dev daddr addr v s ≠ .fault f := by
  unfold acceptTransaction
  split_ifs <;> nofun

theorem acceptTransfer_ne_fault {s : State} {k : Host.Outcome State Fault Refusal} {f : Fault} (hk : k ≠ .fault f) :
    acceptTransfer s k ≠ .fault f := by
  unfold acceptTransfer
  split_ifs
  · nofun
  · nofun
  · exact hk

/-- A command is accepted or refused, a condition is executed or refused: no instruction faults. -/
theorem exec_ne_fault (i : Instr) (s : State) (f : Fault) : exec i s ≠ .fault f := by
  cases i with
  | i2cInit =>
    simp only [exec, execI2cInit]
    split_ifs <;> nofun
  | i2cSendByte dev daddr addr v => exact acceptTransaction_ne_fault 1#2 dev daddr addr v s f
  | i2cReadByte dev daddr addr v => exact acceptTransaction_ne_fault 2#2 dev daddr addr v s f
  | uartInit baud fmt =>
    simp only [exec, execUartInit]
    split_ifs <;> nofun
  | uartTxBuffer base len =>
    refine acceptTransfer_ne_fault ?_
    split_ifs <;> nofun
  | uartTxByte | uartRxByte => exact acceptTransfer_ne_fault nofun
  | condStatReserved =>
    simp only [exec, execCondStatReserved]
    split <;> nofun
  | i2cReservedOp3 | condStart | condStop | condData => nofun

theorem execWord_ne_fault (p : Port) (w : Word48) (s : State) (f : Fault) : execWord p w s ≠ .fault f := by
  unfold execWord
  split
  · nofun
  · exact exec_ne_fault _ s f

/-- Settles O4: only a unit's step can fault, and under the invariant a unit whose turn it is has a next state. -/
theorem invariantExcludesFaults : Obligations.InvariantExcludesFaults := by
  intro s f h
  cases hm : s.move with
  | i2c =>
    obtain ⟨_, hbusy⟩ := fits_of_move hm
    obtain ⟨t, ht⟩ := i2cUnitStep_answers h.tick.i2c (by simpa using hbusy)
    simp [step, hm, ht]
  | uart =>
    obtain ⟨t, ht⟩ := uartUnitStep_answers h.tick.uart
    simp [step, hm, ht]
  | primCall c =>
    simp only [step, hm]
    exact exec_ne_fault (decodeCond c) _ f
  | command p w =>
    simp only [step, hm]
    exact execWord_ne_fault p w _ f
  | refuseConfig | reset | primWait | fill a b | wait => simp [step, hm]

/-- Settles O5: with a legal configuration a due reset is a next state, and without one the busy unit answers; if the I2C
unit is idle it is not waiting, so the turn is the UART unit's. -/
theorem busyUnitsAlwaysStep : Obligations.BusyUnitsAlwaysStep := by
  intro s h hcfg hbusy
  cases hrst : s.rstDue with
  | true => exact ⟨_, step_of_reset hcfg hrst⟩
  | false =>
    by_cases hidle : s.i2c.ph = .idle
    · rw [step_of_uart_busy hcfg hrst hidle (h.not_waiting_of_idle hidle) (hbusy.resolve_left (not_not.mpr hidle))]
      exact uartUnitStep_answers h.tick.uart
    · rw [step_of_i2c_busy hcfg hrst hidle]
      exact i2cUnitStep_answers h.tick.i2c (by simpa using hidle)

end Sys2Proof.Machine
end

section
/-! The decoder and the encoder (spec/30_encoding.md R80 to R98): fields of a word as bit ranges, the two directions between
words and instructions, and the words that are refused. -/

namespace Sys2Proof

/-! ### Fields -/

theorem bits_or (a b : Word48) (lo len : Nat) : bits (a ||| b) lo len = bits a lo len ||| bits b lo len := by
  apply BitVec.eq_of_getLsbD_eq
  intro k hk
  simp [bits, hk]

/-- Reading inside a placed field. -/
theorem bits_place {n : Nat} (v : BitVec n) {lo off len : Nat} (h : lo + off + len ≤ 48) :
    bits (place v lo) (lo + off) len = v.extractLsb' off len := by
  apply BitVec.eq_of_getLsbD_eq
  intro k hk
  have hhigh : lo + (off + k) < 48 := by omega
  simp [bits, place, hk, hhigh, Nat.add_assoc]

theorem bits_place_self {n : Nat} (v : BitVec n) {lo : Nat} (h : lo + n ≤ 48) : bits (place v lo) lo n = v := by
  simpa using bits_place v (off := 0) h

/-- Reading outside a placed field. -/
theorem bits_place_disjoint {n : Nat} (v : BitVec n) {lo lo' len : Nat} (h : lo + n ≤ lo' ∨ lo' + len ≤ lo) :
    bits (place v lo) lo' len = 0#len := by
  apply BitVec.eq_of_getLsbD_eq
  intro k hk
  simp only [bits, place, BitVec.getLsbD_extractLsb', BitVec.getLsbD_shiftLeft, BitVec.getLsbD_setWidth,
    BitVec.getLsbD_zero]
  obtain h | h := h
  · simp [BitVec.getLsbD_of_ge v (lo' + k - lo) (by omega)]
  · simp [show lo' + k < lo by omega]

/-- A field put back where it was read is the word under the field's mask. -/
theorem place_bits (w : Word48) {lo len : Nat} (h : lo + len ≤ 48) :
    place (bits w lo len) lo = w &&& place (BitVec.allOnes len) lo := by
  apply BitVec.eq_of_getLsbD_eq
  intro k hk
  simp only [place, bits, BitVec.getLsbD_shiftLeft, BitVec.getLsbD_setWidth, BitVec.getLsbD_extractLsb',
    BitVec.getLsbD_and, BitVec.getLsbD_allOnes]
  by_cases hlo : k < lo
  · simp [hlo]
  · have hidx : lo + (k - lo) = k := by omega
    have hlow : k - lo < 48 := by omega
    simp [hk, hlo, hidx, hlow, Bool.and_comm]

/-! ### Words from fields -/

section I2cWord

variable (op : BitVec 2) (dev daddr : Byte) (addr : Half) (v : Byte)

theorem zeroField_i2cWord : zeroField (i2cWord op dev daddr addr v) = 0#6 := by
  simp [zeroField, i2cWord, bits_or, bits_place_disjoint]

theorem opField_i2cWord : opField (i2cWord op dev daddr addr v) = op := by
  simp [opField, i2cWord, bits_or, bits_place_disjoint, bits_place_self]

/-- The four operand fields of format I2C48 (R80). -/
theorem operands_i2cWord :
    bits (i2cWord op dev daddr addr v) 32 8 = dev ∧ bits (i2cWord op dev daddr addr v) 24 8 = daddr ∧
    bits (i2cWord op dev daddr addr v) 8 16 = addr ∧ bits (i2cWord op dev daddr addr v) 0 8 = v := by
  simp [i2cWord, bits_or, bits_place_disjoint, bits_place_self]

end I2cWord

section UartWord

variable (op : BitVec 2) (a : BitVec 32) (b : Byte)

theorem zeroField_uartWord : zeroField (uartWord op a b) = 0#6 := by
  simp [zeroField, uartWord, bits_or, bits_place_disjoint]

theorem opField_uartWord : opField (uartWord op a b) = op := by
  simp [opField, uartWord, bits_or, bits_place_disjoint, bits_place_self]

/-- The fields A and B of format UART48 (R83). -/
theorem operands_uartWord : bits (uartWord op a b) 8 32 = a ∧ bits (uartWord op a b) 0 8 = b := by
  simp [uartWord, bits_or, bits_place_disjoint, bits_place_self]

/-- The two halves of the field A (R84). -/
theorem halves_uartWord :
    bits (uartWord op a b) 24 16 = a.extractLsb' 16 16 ∧ bits (uartWord op a b) 8 16 = a.extractLsb' 0 16 := by
  have hbase : bits (place a 8) 24 16 = a.extractLsb' 16 16 := bits_place a (off := 16) (by decide)
  have hlen : bits (place a 8) 8 16 = a.extractLsb' 0 16 := bits_place a (off := 0) (by decide)
  simp [uartWord, bits_or, bits_place_disjoint, hbase, hlen]

/-- The operands of `UART.TX_BUFFER` in the field A (R84). -/
theorem halves_of_pair (base len : Half) :
    (base.setWidth 32 <<< 16 ||| len.setWidth 32).extractLsb' 16 16 = base ∧
    (base.setWidth 32 <<< 16 ||| len.setWidth 32).extractLsb' 0 16 = len := by
  constructor
  · apply BitVec.eq_of_getLsbD_eq
    intro k hk
    simp [hk, show 16 + k < 32 by omega]
  · apply BitVec.eq_of_getLsbD_eq
    intro k hk
    simp [hk, show k < 32 by omega]

end UartWord

/-! ### Decode of encode -/

open Machine (decode_i2c decode_uart decodeI2c_sendByte decodeI2c_readByte decode_command_eq_ok)

theorem decode_i2cWord (op : BitVec 2) (dev daddr : Byte) (addr : Half) (v : Byte) :
    decode (.command .i2c (i2cWord op dev daddr addr v)) = .ok (decodeI2c (i2cWord op dev daddr addr v)) :=
  decode_i2c (zeroField_i2cWord op dev daddr addr v)

theorem decode_uartWord (op : BitVec 2) (a : BitVec 32) (b : Byte) :
    decode (.command .uart (uartWord op a b)) = .ok (decodeUart (uartWord op a b)) :=
  decode_uart (zeroField_uartWord op a b)

/-- Settles O16, row by row: the opcode read back selects the row, and each operand is a field read back where it was
placed. -/
theorem decodeOfEncode : Obligations.DecodeOfEncode := by
  intro i
  cases i with
  | i2cInit | i2cReservedOp3 => simp [encode, decode_i2cWord, decodeI2c, opField_i2cWord]
  | i2cSendByte dev daddr addr v | i2cReadByte dev daddr addr v =>
    simp [encode, decode_i2cWord, decodeI2c, opField_i2cWord, operands_i2cWord]
  | uartInit baud fmt => simp [encode, decode_uartWord, decodeUart, opField_uartWord, operands_uartWord]
  | uartTxByte b => simp [encode, decode_uartWord, decodeUart, opField_uartWord, operands_uartWord]
  | uartTxBuffer base len =>
    simp [encode, decode_uartWord, decodeUart, opField_uartWord, halves_uartWord, halves_of_pair]
  | uartRxByte => simp [encode, decode_uartWord, decodeUart, opField_uartWord]
  | condStart | condStop | condData | condStatReserved => rfl

/-! ### Encode of decode -/

theorem and_or_left (w a b : Word48) : w &&& a ||| w &&& b = w &&& (a ||| b) := BitVec.and_or_distrib_left.symm

theorem place_zero (n lo : Nat) : place (0#n) lo = 0#48 := by
  simp [place]

/-- A word whose `zero` field is 0 keeps nothing under that field's mask. -/
theorem and_zeroMask {w : Word48} (hz : zeroField w = 0#6) : w &&& 0xFC0000000000#48 = 0#48 :=
  calc w &&& 0xFC0000000000#48 = place (bits w 42 6) 42 := (place_bits w (lo := 42) (len := 6) (by decide)).symm
    _ = 0#48 := by rw [show bits w 42 6 = 0#6 from hz, place_zero]

/-- With a `zero` field of 0 a mask may show that field or not. -/
theorem and_mask_of_zeroField {w : Word48} (hz : zeroField w = 0#6) (m : Word48) :
    w &&& m = w &&& (m ||| 0xFC0000000000#48) := by
  rw [← and_or_left, and_zeroMask hz, BitVec.or_zero]

/-- The opcode of a word, put back. -/
theorem place_opField {w : Word48} {op : BitVec 2} (h : opField w = op) : place op 40 = w &&& 0x030000000000#48 := by
  rw [← h]
  exact place_bits w (by decide)

section Fields

variable {w : Word48} {op : BitVec 2} (hz : zeroField w = 0#6) (hop : opField w = op)
include hz hop

/-- All fields of a word of format I2C48, each put back where it was read (R80). -/
theorem i2cWord_of_fields :
    i2cWord op (bits w 32 8) (bits w 24 8) (bits w 8 16) (bits w 0 8) = w &&& 0xFFFFFFFFFFFF#48 := by
  simp only [i2cWord, place_opField hop, place_bits, and_or_left, Nat.reduceAdd, Nat.reduceLeDiff]
  exact and_mask_of_zeroField hz _

/-- A word of format I2C48 without its operands (R82). -/
theorem i2cWord_of_opField : i2cWord op 0#8 0#8 0#16 0#8 = w &&& 0xFF0000000000#48 := by
  simp only [i2cWord, place_opField hop, place_zero, BitVec.or_zero]
  exact and_mask_of_zeroField hz _

/-- All fields of a word of format UART48, each put back where it was read (R83). -/
theorem uartWord_of_fields : uartWord op (bits w 8 32) (bits w 0 8) = w &&& 0xFFFFFFFFFFFF#48 := by
  simp only [uartWord, place_opField hop, place_bits, and_or_left, Nat.reduceAdd, Nat.reduceLeDiff]
  exact and_mask_of_zeroField hz _

/-- A word of format UART48 without its field A (R85). -/
theorem uartWord_of_fieldB : uartWord op 0#32 (bits w 0 8) = w &&& 0xFF00000000FF#48 := by
  simp only [uartWord, place_opField hop, place_bits, place_zero, BitVec.or_zero, and_or_left, Nat.reduceAdd,
    Nat.reduceLeDiff]
  exact and_mask_of_zeroField hz _

/-- A word of format UART48 without its field B (R85). -/
theorem uartWord_of_fieldA : uartWord op (bits w 8 32) 0#8 = w &&& 0xFFFFFFFFFF00#48 := by
  simp only [uartWord, place_opField hop, place_bits, place_zero, BitVec.or_zero, and_or_left, Nat.reduceAdd,
    Nat.reduceLeDiff]
  exact and_mask_of_zeroField hz _

/-- A word of format UART48 without its operands (R85). -/
theorem uartWord_of_opField : uartWord op 0#32 0#8 = w &&& 0xFF0000000000#48 := by
  simp only [uartWord, place_opField hop, place_zero, BitVec.or_zero]
  exact and_mask_of_zeroField hz _

end Fields

/-- The two halves of the field A put together again (R84). -/
theorem pair_of_halves (w : Word48) :
    (bits w 24 16).setWidth 32 <<< 16 ||| (bits w 8 16).setWidth 32 = bits w 8 32 := by
  apply BitVec.eq_of_getLsbD_eq
  intro k hk
  by_cases h : k < 16
  · simp [bits, hk, h]
  · simp [bits, hk, h, show k - 16 < 16 by omega, show 24 + (k - 16) = 8 + k by omega]

theorem opField_eq_three {w : Word48} (h0 : opField w ≠ 0#2) (h1 : opField w ≠ 1#2) (h2 : opField w ≠ 2#2) :
    opField w = 3#2 := by
  bv_omega

theorem encode_decodeI2c {w : Word48} (hz : zeroField w = 0#6) :
    encode (decodeI2c w) = .command .i2c (w &&& usedMask (decodeI2c w)) := by
  unfold decodeI2c
  split_ifs with h0 h1 h2
  · exact congrArg (Encoded.command .i2c) (i2cWord_of_opField hz h0)
  · exact congrArg (Encoded.command .i2c) (i2cWord_of_fields hz h1)
  · exact congrArg (Encoded.command .i2c) (i2cWord_of_fields hz h2)
  · exact congrArg (Encoded.command .i2c) (i2cWord_of_opField hz (opField_eq_three h0 h1 h2))

theorem encode_decodeUart {w : Word48} (hz : zeroField w = 0#6) :
    encode (decodeUart w) = .command .uart (w &&& usedMask (decodeUart w)) := by
  unfold decodeUart
  split_ifs with h0 h1 h2
  · exact congrArg (Encoded.command .uart) (uartWord_of_fields hz h0)
  · exact congrArg (Encoded.command .uart) (uartWord_of_fieldB hz h1)
  · simp only [encode, pair_of_halves]
    exact congrArg (Encoded.command .uart) (uartWord_of_fieldA hz h2)
  · exact congrArg (Encoded.command .uart) (uartWord_of_opField hz (opField_eq_three h0 h1 h2))

/-- Settles O17: each field that is used is put back where it was read, and the `zero` field holds nothing. -/
theorem encodeOfDecode : Obligations.EncodeOfDecode := by
  intro p w i hi
  obtain ⟨hz, ⟨rfl, rfl⟩ | ⟨rfl, rfl⟩⟩ := decode_command_eq_ok hi
  · exact encode_decodeI2c hz
  · exact encode_decodeUart hz

/-- Settles O18: the decoder evaluated at the words of R97 and at the four codes. -/
theorem workedEncodings : Obligations.WorkedEncodings := by
  unfold Obligations.WorkedEncodings
  decide

end Sys2Proof

namespace Sys2Proof.Machine

/-! ### Refused words -/

/-- Settles O28: the reserved opcode has no other arm. -/
theorem reservedOpcodeStops : Obligations.ReservedOpcodeStops := fun _ => rfl

theorem execWord_of_zeroField {p : Port} {w : Word48} (hz : zeroField w ≠ 0#6) (s : State) :
    execWord p w s = .refused .reservedWord := by
  simp [execWord, decode, decodeWord, hz]

theorem decodeI2c_reserved {w : Word48} (h : opField w = 3#2) : decodeI2c w = .i2cReservedOp3 := by
  simp [decodeI2c, h]

/-- Settles O19: a ready block runs the word, which does not decode, or decodes to the reserved opcode. -/
theorem reservedWordsRefused : Obligations.ReservedWordsRefused := by
  intro s p w rest hready hprim hhost
  rw [step_of_command hready hprim hhost]
  refine ⟨fun hz => execWord_of_zeroField hz _, fun hz hop hp => ?_⟩
  subst hp
  rw [execWord_of_decode (decode_i2c hz), decodeI2c_reserved hop]
  exact reservedOpcodeStops _

/-! ### Operand bytes -/

/-- Settles O36: the high byte is the quotient by 256 and the low byte the remainder (R66). -/
theorem subAddressSplit : Obligations.SubAddressSplit := by
  intro addr
  have hhigh : (addrHigh addr).toNat = addr.toNat / 256 := by
    have := addr.isLt
    simp only [addrHigh, BitVec.extractLsb'_toNat, Nat.shiftRight_eq_div_pow]
    omega
  have hlow : (addrLow addr).toNat = addr.toNat % 256 := by
    simp [addrLow]
  omega

/-- The device address byte with a direction bit (R90, R144). -/
def addressByte (dev daddr dir : Byte) : Byte := (dev &&& 0xF0#8) ||| ((daddr &&& 0x07#8) <<< 1) ||| dir

theorem slaw_eq (dev daddr : Byte) : slaw dev daddr = addressByte dev daddr 0#8 := rfl

theorem slar_eq (dev daddr : Byte) : slar dev daddr = addressByte dev daddr 1#8 := rfl

/-- Bit by bit: the mask `0xF0` keeps bits 7:4 of the device, the shifted mask `0x07` bits 2:0 of the modifier. -/
theorem addressByte_getLsbD (dev daddr dir : Byte) {k : Nat} (hk : k < 8) :
    (addressByte dev daddr dir).getLsbD k =
      (((decide (4 ≤ k) && dev.getLsbD k) || (decide (1 ≤ k ∧ k < 4) && daddr.getLsbD (k - 1))) || dir.getLsbD k) := by
  interval_cases k <;> simp [addressByte]

/-- The three fields of the device address byte, whose direction is one bit (R90). -/
theorem addressByte_fields (dev daddr dir : Byte) (hdir : ∀ k, 1 ≤ k → dir.getLsbD k = false) :
    (addressByte dev daddr dir).extractLsb' 4 4 = dev.extractLsb' 4 4 ∧
    (addressByte dev daddr dir).extractLsb' 1 3 = daddr.extractLsb' 0 3 ∧
    (addressByte dev daddr dir).getLsbD 0 = dir.getLsbD 0 := by
  refine ⟨BitVec.eq_of_getLsbD_eq fun k hk => ?_, BitVec.eq_of_getLsbD_eq fun k hk => ?_, ?_⟩
  · have hbyte : 4 + k < 8 := by omega
    simp [hk, addressByte_getLsbD dev daddr dir hbyte, hdir (4 + k) (by omega), show ¬4 + k < 4 by omega]
  · have hbyte : 1 + k < 8 := by omega
    simp [hk, addressByte_getLsbD dev daddr dir hbyte, hdir (1 + k) (by omega), show ¬4 ≤ 1 + k by omega,
      show 1 + k < 4 by omega]
  · rw [addressByte_getLsbD dev daddr dir (by decide)]
    simp

/-- Settles O35: both bytes are the address byte with their direction bit. -/
theorem addressByteLayout : Obligations.AddressByteLayout := by
  intro dev daddr
  have hbit : ∀ k, 1 ≤ k → (1#8).getLsbD k = false := fun k hk => by simp [show k ≠ 0 by omega]
  obtain ⟨hw1, hw2, hw3⟩ := addressByte_fields dev daddr 0#8 (by simp)
  obtain ⟨hr1, hr2, hr3⟩ := addressByte_fields dev daddr 1#8 hbit
  rw [slaw_eq, slar_eq]
  exact ⟨hw1, hw2, hw3, hr1, hr2, hr3, by simp [addressByte]⟩

end Sys2Proof.Machine
end

section
/-! Whole-machine rules: who changes what (spec/00_scope.md R2, R15, R50; spec/10_state.md R20, R23, R31, R41;
spec/20_memory.md R62, R73, R75; spec/60_exceptions.md R236; spec/70_reset_and_hazards.md R260). -/

namespace Sys2Proof.Machine

/-! ### What drives the bus -/

theorem exists_append_of_eq {α : Type} {l m : List α} (h : m = l) : ∃ k, m = l ++ k :=
  ⟨[], h.trans (List.append_nil l).symm⟩

/-- The success outcome of phase RDATA: the byte of `tw.dr` goes to the output slot (R23, R158). -/
def ReceivesByte (s t : State) : Prop :=
  s.i2c.ph = .rdata ∧ s.i2c.w = true ∧ s.tw.cf = true ∧ maskStatus s.tw.status = s.cfg.codes.mrDataNack ∧
    t.i2c.rdata = s.tw.dr ∧ t.i2c.ok = true

/-- What a step of the I2C unit and a bus condition leave alone: the UART side (R2, R20), the host's list, `tw.brr`, and the
output slot but for a received byte; and the port trace only grows. -/
structure DrivesBus (s t : State) : Prop where
  uartSide : SameUartSide s t
  host : t.env.host = s.env.host
  bitRate : t.tw.brr = s.tw.brr
  slot : t.i2c.rdata ≠ s.i2c.rdata → ReceivesByte s t
  grows : ∃ l, t.i2cTrace = s.i2cTrace ++ l

theorem drivesBus_refl (s : State) : DrivesBus s s := 
  ⟨sameUartSide_refl s, rfl, rfl, fun hne => absurd rfl hne, exists_append_of_eq rfl⟩

theorem waitedCond_drivesBus (s : State) (k : Cond) : DrivesBus s (s.waitedCond k) := by
  obtain ⟨_, h⟩ | ⟨_, _, h⟩ | ⟨_, _, h⟩ := waitedCond_cases s k <;> rw [h]
  · exact ⟨sameUartSide_refl s, rfl, rfl, fun hne => absurd rfl hne, _, rfl⟩
  · exact drivesBus_refl s
  · exact ⟨sameUartSide_refl s, rfl, rfl, fun hne => absurd rfl hne, _, rfl⟩

theorem stopCond_drivesBus (s : State) : DrivesBus s s.stopCond :=
  ⟨sameUartSide_refl s, rfl, rfl, fun hne => absurd rfl hne, _, rfl⟩

/-- The instruction of a condition code issues, polls or completes a waited condition, or requests STOP (R88, R89). -/
theorem exec_decodeCond_next {c : BitVec 2} {s t : State} (h : exec (decodeCond c) s = .next t) :
    (∃ k, t = s.waitedCond k) ∨ t = s.stopCond := by
  unfold decodeCond at h
  split_ifs at h
  · exact .inl ⟨.start, (Host.Outcome.next.inj h).symm⟩
  · exact .inr (Host.Outcome.next.inj h).symm
  · exact .inl ⟨.data, (Host.Outcome.next.inj h).symm⟩
  · simp only [exec, execCondStatReserved] at h
    split at h
    · cases h
    · exact .inl ⟨.data, (Host.Outcome.next.inj h).symm⟩

theorem exec_decodeCond_drivesBus {c : BitVec 2} {s t : State} (h : exec (decodeCond c) s = .next t) :
    DrivesBus s t := by
  obtain ⟨k, rfl⟩ | rfl := exec_decodeCond_next h
  · exact waitedCond_drivesBus s k
  · exact stopCond_drivesBus s

/-- The decoder says SUCCESS in phase RDATA on the read-NACK status only (R129). -/
theorem decodeStatus_rdata_success {k : StatusCodes} {st : Byte} (h : decodeStatus k .rdata st = .success) :
    st = k.mrDataNack := by
  simp only [decodeStatus] at h
  split_ifs at h with hst
  exact hst

/-- A success outcome receives a byte where it changes the output slot (R155, R158). -/
theorem receivesByte_of_success {s t : State} (hs : Completing s) (hd : outcomeNow s = .success)
    (ht : t = completedAs s { latched s with
      rdata := if s.i2c.ph = .rdata then s.tw.dr else s.i2c.rdata, ok := true, cause := .ok, ph := .stop })
    (hne : t.i2c.rdata ≠ s.i2c.rdata) : ReceivesByte s t := by
  obtain ⟨_, hw, hcf⟩ := hs
  have hslot : t.i2c.rdata = if s.i2c.ph = .rdata then s.tw.dr else s.i2c.rdata := congrArg (·.i2c.rdata) ht
  by_cases hph : s.i2c.ph = .rdata
  · rw [if_pos hph] at hslot
    unfold outcomeNow at hd
    rw [hph] at hd
    exact ⟨hph, hw, hcf, decodeStatus_rdata_success hd, hslot, congrArg (·.i2c.ok) ht⟩
  · rw [if_neg hph] at hslot
    exact absurd hslot hne

/-- Taking a call off the list of calls changes nothing that is compared. -/
theorem DrivesBus.of_popPrim {s t : State} (h : DrivesBus s.popPrim t) : DrivesBus s t := by
  obtain ⟨hside, hhost, hbrr, hslot, hgrows⟩ := h
  exact ⟨hside, hhost, hbrr, hslot, hgrows⟩

theorem i2cUnitStep_drivesBus {s t : State} (h : i2cUnitStep s = .next t) : DrivesBus s t := by
  obtain ⟨hhost, _, _⟩ := i2cUnitStep_env h
  have hside := i2cUnitStep_sameUartSide h
  cases i2cStep_cases h with
  | stay _ ht => exact ht ▸ drivesBus_refl s
  | issue _ hw ht =>
    obtain rfl := ht.trans (issueStep_eq hw)
    exact ⟨hside, hhost, rfl, fun hne => absurd rfl hne, _, List.append_assoc _ _ _⟩
  | success hs hd ht => exact ⟨hside, hhost, by rw [ht]; rfl, receivesByte_of_success hs hd ht, _, by rw [ht]; rfl⟩
  | stop _ ht | continue_ _ _ _ _ ht | abort _ _ ht | retry _ _ _ _ _ ht | exhaustStop _ _ _ _ _ _ ht
  | exhaust _ _ _ _ _ _ ht =>
    subst ht
    exact ⟨hside, hhost, rfl, fun hne => absurd rfl hne, _, rfl⟩

/-! ### What drives the serial line -/

/-- What a step of the UART unit leaves alone: the I2C side (R2, R20), the environment's lists, the configuration registers
of the port, and `ua.tdr` but for a TXW step that sees `ua.dre = 1` (R41, R75); and the port trace only grows. -/
structure DrivesSerial (s t : State) : Prop where
  i2cSide : SameI2cSide s t
  env : t.env = s.env
  config : t.ua.brrh = s.ua.brrh ∧ t.ua.brrl = s.ua.brrl ∧ t.ua.en = s.ua.en ∧ t.ua.fmt = s.ua.fmt
  transmit : t.ua.tdr ≠ s.ua.tdr → s.uart.ph = .txw ∧ s.ua.dre = true
  grows : ∃ l, t.uartTrace = s.uartTrace ++ l

theorem uartUnitStep_drivesSerial {s t : State} (h : uartUnitStep s = .next t) : DrivesSerial s t := by
  obtain ⟨hside, henv⟩ := uartUnitStep_sameI2cSide h
  obtain ⟨_, rfl⟩ | ⟨_, _, rfl⟩ | ⟨b, hph, hdre, _, rfl⟩ | ⟨_, _, rfl⟩ | ⟨_, _, rfl⟩ := uartUnitStep_next h
  · exact ⟨hside, henv, ⟨rfl, rfl, rfl, rfl⟩, fun hne => absurd rfl hne, exists_append_of_eq rfl⟩
  · exact ⟨hside, henv, ⟨rfl, rfl, rfl, rfl⟩, fun hne => absurd rfl hne, exists_append_of_eq rfl⟩
  · exact ⟨hside, henv, ⟨rfl, rfl, rfl, rfl⟩, fun _ => ⟨hph, hdre⟩, _, rfl⟩
  · exact ⟨hside, henv, ⟨rfl, rfl, rfl, rfl⟩, fun hne => absurd rfl hne, exists_append_of_eq rfl⟩
  · exact ⟨hside, henv, ⟨rfl, rfl, rfl, rfl⟩, fun hne => absurd rfl hne, _, rfl⟩

/-- Settles O8: the frame of each unit's step, of each accepted command and of the conditions. -/
theorem unitsAreSeparate : Obligations.UnitsAreSeparate := by
  refine ⟨fun s t ht => i2cUnitStep_sameUartSide ht, fun s t ht => (uartUnitStep_drivesSerial ht).i2cSide,
    fun s t w i hi ht => ?_, fun s t c ht => (exec_decodeCond_drivesBus ht).uartSide, fun s t w i hi ht => ?_⟩
  · obtain rfl := eq_decodeI2c_of_decode hi
    obtain ⟨h, _⟩ := (exec_decodeI2c_cases ht).sameUartSide
    exact h
  · obtain ⟨_, ⟨hp, _⟩ | ⟨_, rfl⟩⟩ := decode_command_eq_ok hi
    · cases hp
    · obtain ⟨h, _⟩ := (exec_decodeUart_cases ht).sameI2cSide
      exact h

/-! ### The effect of a step -/

/-- What a step does, by what it touches: a reset, the bus, the serial line, a byte of the buffer, an accepted command of
either port, or nothing but the environment's move. -/
inductive StepEffect (s t : State) : Prop
  | reset (due : s.rstDue = true) (ht : t = s.resetEvent)
  | bus (h : DrivesBus s.tick t)
  | serial (h : DrivesSerial s.tick t)
  | fill (a : Half) (b : Byte) (rest : List HostAction) (ready : Ready s) (host : s.env.host = .fill a b :: rest)
      (ht : t = s.tick.popHost.fillBuffer a b)
  | i2cCommand (w : Word48) (rest : List HostAction) (ready : Ready s) (host : s.env.host = .present .i2c w :: rest)
      (decoded : decode (.command .i2c w) = .ok (decodeI2c w)) (h : I2cAccept w s.tick.popHost t)
  | uartCommand (w : Word48) (rest : List HostAction) (ready : Ready s) (host : s.env.host = .present .uart w :: rest)
      (decoded : decode (.command .uart w) = .ok (decodeUart w)) (h : UartAccept w s.tick.popHost t)
  | wait (ht : t = s.tick)

theorem step_effect {s t : State} (h : step s = .next t) : StepEffect s t := by
  cases step_cases h with
  | reset hdue ht => exact .reset hdue ht
  | i2c _ _ ht => exact .bus (i2cUnitStep_drivesBus ht)
  | primWait _ _ ht => exact .bus (ht ▸ waitedCond_drivesBus s.tick .data)
  | uart _ _ ht => exact .serial (uartUnitStep_drivesSerial ht)
  | primCall c _ _ _ ht =>
    exact .bus (exec_decodeCond_drivesBus ht).of_popPrim
  | fill a b rest hready hhost ht => exact .fill a b rest hready hhost ht
  | command p w i rest hready hhost hi ht =>
    obtain ⟨hz, ⟨rfl, rfl⟩ | ⟨rfl, rfl⟩⟩ := decode_command_eq_ok hi
    · exact .i2cCommand w rest hready hhost hi (exec_decodeI2c_cases ht)
    · exact .uartCommand w rest hready hhost hi (exec_decodeUart_cases ht)
  | wait _ ht => exact .wait ht

/-- Settles O6: no agent writes a parameter. -/
theorem parametersNeverChange : Obligations.ParametersNeverChange := by
  intro s t h
  have htick : s.tick.cfg = s.cfg := tick_cfg s
  cases step_effect h with
  | reset _ ht => exact ht ▸ rfl
  | bus h =>
    obtain ⟨hcfg, _⟩ := h.uartSide
    exact hcfg.trans htick
  | serial h =>
    obtain ⟨hcfg, _⟩ := h.i2cSide
    exact hcfg.trans htick
  | fill _ _ _ _ _ ht | wait ht => simp [ht]
  | i2cCommand _ _ _ _ _ h =>
    obtain ⟨⟨hcfg, _⟩, _⟩ := h.sameUartSide
    exact hcfg.trans htick
  | uartCommand _ _ _ _ _ h =>
    obtain ⟨⟨hcfg, _⟩, _⟩ := h.sameI2cSide
    exact hcfg.trans htick

/-- The buffer after a step: as it was, or with the host's byte placed (R62). -/
theorem step_mem {s t : State} (h : step s = .next t) :
    t.mem = s.mem ∨ ∃ (a : Half) (b : Byte) (rest : List HostAction),
      s.env.host = .fill a b :: rest ∧ t.mem = memSet s.mem a.toNat b := by
  have htick : s.tick.mem = s.mem := tick_mem s
  cases step_effect h with
  | reset _ ht => exact .inl (ht ▸ rfl)
  | bus h =>
    obtain ⟨_, _, _, _, hmem⟩ := h.uartSide
    exact .inl (hmem.trans htick)
  | serial h =>
    obtain ⟨_, _, _, _, _, hmem⟩ := h.i2cSide
    exact .inl (hmem.trans htick)
  | fill a b rest _ hhost ht => exact .inr ⟨a, b, rest, hhost, ht ▸ htick ▸ rfl⟩
  | i2cCommand _ _ _ _ _ h =>
    obtain ⟨⟨_, _, _, _, hmem⟩, _⟩ := h.sameUartSide
    exact .inl (hmem.trans htick)
  | uartCommand _ _ _ _ _ h =>
    obtain ⟨⟨_, _, _, _, _, hmem⟩, _⟩ := h.sameI2cSide
    exact .inl (hmem.trans htick)
  | wait ht => exact .inl (ht ▸ htick)

/-- Settles O7: a byte placed at one address is read back there and changes no other. -/
theorem bufferChangedByHostOnly : Obligations.BufferChangedByHostOnly := by
  intro s t c hwf h hne
  obtain hmem | ⟨a, b, rest, hhost, hmem⟩ := step_mem h
  · exact absurd (congrArg (memGet · c) hmem) hne
  · rw [hmem, memGet_memSet s.mem hwf] at hne ⊢
    split_ifs at hne ⊢ with hc
    · exact ⟨a, b, rest, hhost, hc, rfl⟩
    · exact absurd rfl hne

/-- Settles O9: of all agents only an accepted `I2C.INIT` writes the register. -/
theorem bitRateWrittenByInitOnly : Obligations.BitRateWrittenByInitOnly := by
  intro s t h hne
  have htick : s.tick.tw.brr = s.tw.brr := tick_brr s
  cases step_effect h with
  | reset _ ht => exact absurd (ht ▸ rfl) hne
  | bus h => exact absurd (h.bitRate.trans htick) hne
  | serial h =>
    obtain ⟨_, _, htw, _⟩ := h.i2cSide
    exact absurd (htw ▸ htick) hne
  | fill _ _ _ _ _ ht | wait ht => exact absurd (by simp [ht]) hne
  | i2cCommand w rest _ hhost hi h =>
    cases h with
    | init hword _ _ => exact ⟨w, rest, hhost, hword ▸ hi⟩
    | transaction _ _ _ _ _ _ _ _ ht => exact absurd (ht ▸ htick) hne
  | uartCommand _ _ _ _ _ h =>
    obtain ⟨⟨_, _, htw, _⟩, _⟩ := h.sameI2cSide
    exact absurd (htw ▸ htick) hne

/-- The registers of the UART port that only the unit writes (R41). -/
def uartRegs (s : State) : Byte × Byte × BitVec 2 × Byte × Byte := (s.ua.brrh, s.ua.brrl, s.ua.en, s.ua.fmt, s.ua.tdr)

theorem tick_uartRegs (s : State) : uartRegs s.tick = uartRegs s := by
  obtain ⟨_, _, _, _, _, _, _, _, _, _, _, _, _, hbrrh, hbrrl, hen, hfmt, htdr, _⟩ := tick_frame s
  simp [uartRegs, hbrrh, hbrrl, hen, hfmt, htdr]

theorem uartRegs_eq_of_ua {s t : State} (h : t.ua = s.tick.ua) : uartRegs t = uartRegs s := by
  rw [← tick_uartRegs s, uartRegs, uartRegs, h]

/-- Settles O10: an accepted `UART.INIT` writes the configuration registers, a TXW step `ua.tdr`, and nothing else any of
them. -/
theorem uartPortWriters : Obligations.UartPortWriters := by
  intro s t h
  have htick := tick_uartRegs s
  have unchanged {p q : Prop} (hregs : uartRegs t = uartRegs s) :
      (t.ua.brrh ≠ s.ua.brrh ∨ t.ua.brrl ≠ s.ua.brrl ∨ t.ua.en ≠ s.ua.en ∨ t.ua.fmt ≠ s.ua.fmt → p) ∧
      (t.ua.tdr ≠ s.ua.tdr → q) := by
    simp only [uartRegs, Prod.mk.injEq] at hregs
    obtain ⟨hbrrh, hbrrl, hen, hfmt, htdr⟩ := hregs
    simp [hbrrh, hbrrl, hen, hfmt, htdr]
  cases step_effect h with
  | reset _ ht => exact unchanged (ht ▸ rfl)
  | bus h =>
    obtain ⟨_, _, hua, _⟩ := h.uartSide
    exact unchanged (uartRegs_eq_of_ua hua)
  | serial h =>
    simp only [uartRegs, Prod.mk.injEq] at htick
    obtain ⟨hbrrh, hbrrl, hen, hfmt, htdr⟩ := htick
    obtain ⟨hbrrh', hbrrl', hen', hfmt'⟩ := h.config
    refine ⟨fun hne => ?_, fun hne => ?_⟩
    · simp [hbrrh, hbrrl, hen, hfmt, hbrrh', hbrrl', hen', hfmt'] at hne
    · simpa using h.transmit (by rwa [htdr])
  | fill _ _ _ _ _ ht | wait ht => exact unchanged (uartRegs_eq_of_ua (by simp [ht]))
  | i2cCommand _ _ _ _ _ h =>
    obtain ⟨⟨_, _, hua, _⟩, _⟩ := h.sameUartSide
    exact unchanged (uartRegs_eq_of_ua hua)
  | uartCommand w rest _ hhost hi h =>
    cases h with
    | init baud fmt hword _ ht =>
      simp only [uartRegs, Prod.mk.injEq] at htick
      obtain ⟨_, _, _, _, htdr⟩ := htick
      exact ⟨fun _ => ⟨w, rest, baud, fmt, hhost, hword ▸ hi⟩, fun hne => absurd (ht ▸ htdr) hne⟩
    | txByte _ _ _ ht | txEmpty _ _ _ ht | txBuffer _ _ _ _ _ _ ht | rxByte _ _ ht =>
      exact unchanged (uartRegs_eq_of_ua (ht ▸ rfl))

/-- Settles O11: of all agents only the success outcome of RDATA writes the slot, but for a reset. -/
theorem outputSlotWrittenBySuccessfulReadOnly : Obligations.OutputSlotWrittenBySuccessfulReadOnly := by
  intro s t h hne hdue
  have htick : s.tick.i2c = s.i2c := tick_i2c s
  have unchanged (hi2c : t.i2c.rdata = s.tick.i2c.rdata) : ReceivesByte s.tick t :=
    absurd (htick ▸ hi2c) hne
  have received : ReceivesByte s.tick t := by
    cases step_effect h with
    | reset hdue' _ => simp [hdue] at hdue'
    | bus h => exact h.slot (by rwa [htick])
    | serial h =>
      obtain ⟨_, hi2c, _⟩ := h.i2cSide
      exact unchanged (by rw [hi2c])
    | fill _ _ _ _ _ ht | wait ht => exact unchanged (by simp [ht])
    | i2cCommand _ _ _ _ _ h =>
      cases h with
      | init _ _ ht | transaction _ _ _ _ _ _ _ _ ht => exact unchanged (ht ▸ rfl)
    | uartCommand _ _ _ _ _ h =>
      obtain ⟨⟨_, hi2c, _⟩, _⟩ := h.sameI2cSide
      exact unchanged (by rw [hi2c]; rfl)
  simpa [ReceivesByte] using received

theorem I2cAccept.grows {w : Word48} {s t : State} (h : I2cAccept w s t) : ∃ l, t.i2cTrace = s.i2cTrace ++ l := by
  cases h with
  | init _ _ ht =>
    subst ht
    exact ⟨_, rfl⟩
  | transaction _ _ _ _ _ _ _ _ ht => exact exists_append_of_eq (ht ▸ rfl)

theorem UartAccept.grows {w : Word48} {s t : State} (h : UartAccept w s t) : ∃ l, t.uartTrace = s.uartTrace ++ l := by
  cases h with
  | init _ _ _ _ ht =>
    rw [uartProgram_eq] at ht
    subst ht
    exact ⟨_, rfl⟩
  | txByte _ _ _ ht | txEmpty _ _ _ ht | txBuffer _ _ _ _ _ _ ht | rxByte _ _ ht => exact exists_append_of_eq (ht ▸ rfl)

/-- Settles O12: each agent appends to the trace of its port and leaves the other. -/
theorem tracesOnlyGrow : Obligations.TracesOnlyGrow := by
  intro s t h
  rw [← tick_i2cTrace s, ← tick_uartTrace s]
  cases step_effect h with
  | reset _ ht =>
    rw [tick_i2cTrace, tick_uartTrace, ht]
    exact ⟨exists_append_of_eq rfl, exists_append_of_eq rfl⟩
  | bus h =>
    obtain ⟨_, _, _, hserial, _⟩ := h.uartSide
    exact ⟨h.grows, exists_append_of_eq hserial⟩
  | serial h =>
    obtain ⟨_, _, _, _, hbus, _⟩ := h.i2cSide
    exact ⟨exists_append_of_eq hbus, h.grows⟩
  | fill _ _ _ _ _ ht | wait ht => exact ⟨exists_append_of_eq (by simp [ht]), exists_append_of_eq (by simp [ht])⟩
  | i2cCommand _ _ _ _ _ h =>
    obtain ⟨⟨_, _, _, hserial, _⟩, _⟩ := h.sameUartSide
    exact ⟨h.grows, exists_append_of_eq hserial⟩
  | uartCommand _ _ _ _ _ h =>
    obtain ⟨⟨_, _, _, _, hbus, _⟩, _⟩ := h.sameI2cSide
    exact ⟨exists_append_of_eq hbus, h.grows⟩

/-- Settles O13: the host's list is taken from only in a state ready for a command, which no busy unit allows. -/
theorem hostWaitsForBusyUnits : Obligations.HostWaitsForBusyUnits := by
  intro s t h hbusy
  have not_ready (hready : Ready s) : False := hbusy.elim (absurd hready.i2cIdle) (absurd hready.uartIdle)
  have htick : s.tick.env.host = s.env.host := tick_host s
  cases step_effect h with
  | reset _ ht => exact ht ▸ rfl
  | bus h => exact h.host.trans htick
  | serial h => exact (congrArg Env.host h.env).trans htick
  | wait ht => exact ht ▸ htick
  | fill _ _ _ hready | i2cCommand _ _ hready | uartCommand _ _ hready => exact (not_ready hready).elim

/-! ### Reset and configuration -/

/-- Settles O14: the clauses are the fields of the reset event; the masked free value in the latch is masked already. -/
theorem resetEventReturnsUnitsToIdle : Obligations.ResetEventReturnsUnitsToIdle := by
  intro s hcfg hdue
  exact ⟨_, step_of_reset hcfg hdue, rfl, rfl, rfl, rfl, rfl, rfl, rfl, rfl, maskStatus_idem _, rfl, rfl, rfl, rfl, rfl, rfl,
    rfl, rfl, rfl, rfl, rfl⟩

/-- Settles O15: the range of R11 is that of the quotient by 500000, and the legality of the configuration is tested before
anything else. -/
theorem illegalConfigurationRefused : Obligations.IllegalConfigurationRefused := by
  refine ⟨fun c => ?_, fun c hclock => ?_, fun s hcfg => ?_⟩
  · rw [clockLegal_iff]
    omega
  · exact Bool.eq_false_of_not_eq_true fun hcfg => by simp [clockLegal_of_configLegal hcfg] at hclock
  · simp [step, State.move, hcfg]

end Sys2Proof.Machine
end

section
/-! The step runs what is presented (spec/00_scope.md R14; spec/10_state.md R48; spec/30_encoding.md R87 to R89), and the
instructions that are accepted at all (spec/20_memory.md R70; spec/43_uart.md R193). -/

namespace Sys2Proof.Machine

/-- Settles O20: the word decodes, and taking it from the port leaves the rest of the host's list. -/
theorem stepRunsPresentedWord : Obligations.StepRunsPresentedWord := by
  intro s p w rest i hready hprim hhost hi
  rw [step_of_command hready hprim hhost, execWord_of_decode hi, State.popHost, tick_host, hhost]
  rfl

/-- Settles O21: taking the call leaves the rest of the list of calls. -/
theorem stepRunsCalledPrimitive : Obligations.StepRunsCalledPrimitive := by
  intro s c rest hready hprim
  rw [step_of_primCall hready hprim, State.popPrim, tick_primCalls, hprim]
  rfl

/-- Settles O22: whose turn it is, read off the state. -/
theorem stepRunsBusyUnit : Obligations.StepRunsBusyUnit := by
  intro s hcfg hrst
  exact ⟨step_of_i2c_busy hcfg hrst, step_of_uart_busy hcfg hrst⟩

/-! ### A word of the opcode table -/

theorem decode_of_decoded? {e : Encoded} {i : Instr} (h : decoded? e = some i) : decode e = .ok i := by
  unfold decoded? at h
  split at h
  · next j hj => rw [hj, Option.some.inj h]
  · cases h

/-- The encoded form of a table word decodes to what `decodeTableWord` answers (log 12). -/
theorem decode_tableEncoded {nbits w : Nat} {i : Instr} (h : decodeTableWord nbits w = some i) :
    decode (tableEncoded nbits w) = .ok i := by
  unfold decodeTableWord at h
  unfold tableEncoded
  split_ifs at h ⊢
  · exact decode_of_decoded? h
  · exact decode_of_decoded? h

/-- A state in which a word is presented is ready for it. -/
theorem presenting_ready {s : State} (hcfg : configLegal s.cfg = true) (e : Encoded) : Ready (s.presenting e) := by
  cases e with
  | command p w => exact ⟨hcfg, rfl, rfl, rfl, rfl⟩
  | cond c => exact ⟨hcfg, rfl, rfl, rfl, rfl⟩

/-- The step takes the presented word, and the state in which it runs is that of the block made idle (log 9). -/
theorem step_presenting {s : State} (hcfg : configLegal s.cfg = true) {e : Encoded} {i : Instr} (hi : decode e = .ok i) :
    ∃ u : State, step (s.presenting e) = exec i u ∧
      u.i2c = { s.i2c with ph := .idle, w := false } ∧ u.uart = { s.uart with ph := .idle } ∧
      u.env.host = s.env.host ∧ u.cfg = s.cfg ∧ u.mem = s.mem := by
  have hready := presenting_ready hcfg e
  obtain ⟨hcfg', hi2c, huart, hmem, _, _, _, hhost, _⟩ := tick_frame (s.presenting e)
  cases e with
  | command p w =>
    rw [step_of_command hready rfl rfl, execWord_of_decode hi]
    generalize (s.presenting (.command p w)).tick = u at *
    exact ⟨u.popHost, rfl, hi2c, huart, congrArg List.tail hhost, hcfg', hmem⟩
  | cond c =>
    rw [step_of_primCall hready rfl, ← Except.ok.inj hi]
    generalize (s.presenting (.cond c)).tick = u at *
    exact ⟨u.popPrim, rfl, hi2c, huart, hhost, hcfg', hmem⟩

/-- Settles O23: the table word is presented in its encoded form. -/
theorem stepRunsTableWord : Obligations.StepRunsTableWord := by
  intro s nbits w i hcfg hi
  exact step_presenting hcfg (decode_tableEncoded hi)

/-! ### Which instructions are accepted -/

theorem execCondStatReserved_of_refuse {s : State} (h : s.cfg.statPolicy = .refuse) :
    execCondStatReserved s = .refused .statReserved := by
  simp only [execCondStatReserved, h]

theorem execCondStatReserved_of_asData {s : State} (h : s.cfg.statPolicy = .asData) :
    execCondStatReserved s = .next (s.waitedCond .data) := by
  simp only [execCondStatReserved, h]

theorem execUartTxBuffer_of_fits {s : State} (hidle : s.uart.ph = .idle) (hinit : s.uart.inited = true) {base len : Half}
    (hfits : bufferFits base len = true) :
    execUartTxBuffer base len s =
      if len = 0#16 then
        .next { s with uart := { s.uart with op := 2#2, done := true, bufp := base, len := len, idx := 0#16 } }
      else
        .next { s with uart := { s.uart with op := 2#2, done := false, bufp := base, len := len, idx := 0#16, ph := .txw } } := by
  rw [execUartTxBuffer, acceptTransfer_of_idle hidle hinit]
  simp [hfits]

/-- An illegal baud rate is refused by a unit in any state: as busy or as out of range (R193, R235). -/
theorem execUartInit_refused {s : State} {baud : BitVec 32} (h : baudLegal s.cfg baud = false) (fmt : Byte) :
    ∃ r, execUartInit baud fmt s = .refused r := by
  by_cases hidle : s.uart.ph = .idle
  · exact ⟨_, execUartInit_of_illegal hidle h fmt⟩
  · exact ⟨_, execUartInit_of_busy hidle baud fmt⟩

/-- A transfer whose own condition fails is refused by a unit in any state (R70, R235, R266). -/
theorem acceptTransfer_refused {s : State} {k : Host.Outcome State Fault Refusal} {r : Refusal} (hk : k = .refused r) :
    ∃ r, acceptTransfer s k = .refused r := by
  unfold acceptTransfer
  split_ifs
  · exact ⟨_, rfl⟩
  · exact ⟨_, rfl⟩
  · exact ⟨r, hk⟩

/-- Settles O24, instruction by instruction: on idle, initialised units the accept conditions hold; where the instruction is
ill-formed its own condition fails. -/
theorem wellFormedIsAccepted : Obligations.WellFormedIsAccepted := by
  refine ⟨fun s i hcfg hi2c huart hi2cInit huartInit hwf => ?_, fun s i hwf => ?_⟩
  · have transfer (k) : acceptTransfer s k = k := acceptTransfer_of_idle huart huartInit k
    cases i with
    | i2cInit => exact ⟨_, execI2cInit_of_idle hi2c (clockLegal_of_configLegal hcfg)⟩
    | i2cSendByte dev daddr addr v => exact ⟨_, acceptTransaction_of_idle hi2c hi2cInit 1#2 dev daddr addr v⟩
    | i2cReadByte dev daddr addr v => exact ⟨_, acceptTransaction_of_idle hi2c hi2cInit 2#2 dev daddr addr v⟩
    | i2cReservedOp3 => cases hwf
    | uartInit baud fmt => exact ⟨_, execUartInit_of_idle huart hwf fmt⟩
    | uartTxByte => exact ⟨_, transfer _⟩
    | uartTxBuffer base len =>
      simp only [exec, execUartTxBuffer_of_fits huart huartInit hwf]
      split_ifs
      · exact ⟨_, rfl⟩
      · exact ⟨_, rfl⟩
    | uartRxByte => exact ⟨_, transfer _⟩
    | condStart | condStop | condData => exact ⟨_, rfl⟩
    | condStatReserved => exact ⟨_, execCondStatReserved_of_asData (by simpa [Instr.wf] using hwf)⟩
  · cases i with
    | i2cReservedOp3 => exact ⟨_, reservedOpcodeStops s⟩
    | uartInit baud fmt => exact execUartInit_refused hwf fmt
    | uartTxBuffer base len => exact acceptTransfer_refused (if_pos hwf)
    | condStatReserved =>
      cases hp : s.cfg.statPolicy with
      | refuse => exact ⟨_, execCondStatReserved_of_refuse hp⟩
      | asData => simp [Instr.wf, hp] at hwf
    | i2cInit | i2cSendByte | i2cReadByte | uartTxByte | uartRxByte | condStart | condStop | condData => cases hwf

/-! ### The accept steps of the transfers -/

/-- Settles O54: the accept condition holds, and what follows it is the statement's state. -/
theorem txByteAccepted : Obligations.TxByteAccepted := by
  intro s byte hidle hinit
  exact acceptTransfer_of_idle hidle hinit _

/-- Settles O55: the buffer fits (R70), and its length decides between the two outcomes (R195). -/
theorem txBufferAccepted : Obligations.TxBufferAccepted := by
  intro s base len hidle hinit hfits
  have haccept := execUartTxBuffer_of_fits hidle hinit ((bufferFits_iff base len).mpr hfits)
  exact ⟨fun hlen => haccept.trans (if_pos hlen), fun hlen => haccept.trans (if_neg hlen)⟩

/-- Settles O56: the accept condition holds, and what follows it is the statement's state. -/
theorem rxByteAccepted : Obligations.RxByteAccepted := by
  intro s hidle hinit
  exact acceptTransfer_of_idle hidle hinit _

end Sys2Proof.Machine
end

section
/-! The bus-condition primitive and the phases of a transaction (spec/40_i2c_conditions.md, spec/41_i2c_status_decoder.md,
spec/42_i2c_transactions.md R144 to R168). -/

namespace Sys2Proof.Machine

/-! ### The primitive -/

theorem waitedCond_eq_issue {s : State} (hw : s.i2c.w = false) (c : Cond) : s.waitedCond c = s.issue c := by
  simp [State.waitedCond, hw]

theorem waitedCond_eq_self {s : State} (hw : s.i2c.w = true) (hcf : s.tw.cf = false) (c : Cond) : s.waitedCond c = s := by
  simp [State.waitedCond, hw, hcf]

/-- Settles O29: with the wait bit clear both instructions are the issue step. -/
theorem waitedConditionIssues : Obligations.WaitedConditionIssues := by
  intro s b hw
  exact ⟨s.issue (waitedOf b), by rw [exec_waitedInstr, waitedCond_eq_issue hw], rfl, rfl, rfl, rfl, rfl,
    sameUartSide_refl s⟩

/-- Settles O31: the poll of the primitive, of a waited phase, of TXW and of RXW. -/
theorem waitingChangesNothing : Obligations.WaitingChangesNothing := by
  refine ⟨fun s b hw hcf => ?_, fun s hph hw hcf => i2cUnitStep_of_poll hph hw hcf,
    fun s hph hdre => uartUnitStep_of_poll (.inl ⟨hph, hdre⟩), fun s hph hrxc => uartUnitStep_of_poll (.inr ⟨hph, hrxc⟩)⟩
  rw [exec_waitedInstr, waitedCond_eq_self hw hcf]

theorem stopFlightOf_ne_none (l : List Nat) : stopFlightOf l ≠ .none := by
  cases l with
  | nil => nofun
  | cons d rest => nofun

/-- Settles O32: `Issue(STOP)` is one step in every state, and the stop it requests is in flight. -/
theorem stopConditionDoesNotWait : Obligations.StopConditionDoesNotWait := by
  intro s
  exact ⟨s.stopCond, rfl, rfl, rfl, rfl, rfl, rfl, stopFlightOf_ne_none _, sameUartSide_refl s⟩

/-- Settles O33: the instruction looks at the policy and, under `as_data`, requests DATA. -/
theorem statFollowsPolicy : Obligations.StatFollowsPolicy := by
  refine ⟨fun s hp => execCondStatReserved_of_refuse hp, fun s hp => ?_⟩
  refine ⟨s.waitedCond .data, execCondStatReserved_of_asData hp, rfl, fun hw => ?_⟩
  rw [waitedCond_eq_issue hw]
  exact ⟨rfl, rfl⟩

/-! ### The issue step -/

/-- The issue step of a waited phase, its load and its condition read from table R148. -/
theorem issuesWith_of_phase {s : State} {p : Phase} (hph : s.i2c.ph = p) (hw : s.i2c.w = false) (hp : p.waited = true) :
    IssuesWith s (loadOf s.i2c p) (condOf p) := by
  subst hph
  exact ⟨_, (i2cUnitStep_of_issue hp hw).trans (congrArg _ (issueStep_eq hw)), rfl, rfl, rfl, rfl, rfl,
    sameUartSide_refl s⟩

/-- Settles O34: each clause is the row of table R148 for its phase. -/
theorem phasesLoadThenRequest : Obligations.PhasesLoadThenRequest := by
  intro s hw
  have row {p : Phase} (hp : p.waited = true) (hph : s.i2c.ph = p) := issuesWith_of_phase hph hw hp
  exact ⟨row rfl, row rfl, row rfl, row rfl, row rfl, row rfl, row rfl, row rfl⟩

/-! ### The completion step -/

section Completion

variable {s : State} (hs : Completing s)
include hs

theorem i2cUnitStep_of_raise {e : Event} (hd : outcomeNow s = .raise e) :
    i2cUnitStep s = .next (s.complete.takeEvent e) :=
  (i2cUnitStep_of_completing hs).trans (applyOutcome_of_raise (s := s.complete) hd)

theorem i2cUnitStep_of_success (hd : outcomeNow s = .success) : i2cUnitStep s = .next s.complete.succeed := by
  rw [i2cUnitStep_of_completing hs]
  have hdecoded : decodeStatus s.complete.cfg.codes s.complete.i2c.ph s.complete.i2c.st = .success := hd
  simp only [applyOutcome, hdecoded]

theorem i2cUnitStep_of_abort (hd : outcomeNow s = .raise .protocol) :
    i2cUnitStep s = .next (completedAs s { latched s with cause := .protocol, ph := .stop }) :=
  i2cUnitStep_of_raise hs hd

theorem i2cUnitStep_of_continue {q : Phase} (hd : outcomeNow s = .continue_)
    (hq : nextPhase s.i2c.op s.i2c.ph = some q) :
    i2cUnitStep s = .next (completedAs s { latched s with ph := q }) :=
  (i2cUnitStep_of_completing hs).trans (applyOutcome_of_continue (s := s.complete) hd hq)

/-- A retryable event below the bound (R160). -/
theorem i2cUnitStep_of_retry {e : Event} (hd : outcomeNow s = .raise e) (he : e ≠ .protocol)
    (hn : s.i2c.n < Config.retries) :
    i2cUnitStep s =
      .next (completedAs s { latched s with cause := causeOf e, n := s.i2c.n + 1#3, ph := .start }) := by
  rw [i2cUnitStep_of_raise hs hd]
  obtain ⟨h, _⟩ | ⟨_, _, ht⟩ | ⟨_, hn', _⟩ := takeEvent_cases s.complete e
  · exact absurd h he
  · exact congrArg _ ht
  · exact absurd hn hn'

/-- A retryable event on the last attempt (R161, R168). -/
theorem i2cUnitStep_of_exhaust {e : Event} (hd : outcomeNow s = .raise e) (he : e ≠ .protocol) (hn : s.i2c.n = 5#3) :
    i2cUnitStep s = .next (s.complete.exhaust (causeOf e)) := by
  rw [i2cUnitStep_of_raise hs hd]
  obtain ⟨h, _⟩ | ⟨_, hn', _⟩ | ⟨_, _, ht⟩ := takeEvent_cases s.complete e
  · exact absurd h he
  · have hbound : s.i2c.n < Config.retries := hn'
    rw [hn] at hbound
    exact absurd hbound (by decide)
  · exact congrArg _ ht

end Completion

/-- Settles O38: the retry branch of table R232; below 5 the 3-bit counter does not wrap. -/
theorem retryRestartsAttempt : Obligations.RetryRestartsAttempt := by
  intro s hs hn
  exact ⟨fun hd => i2cUnitStep_of_retry hs hd (by decide) hn, fun hd => i2cUnitStep_of_retry hs hd (by decide) hn,
    by bv_omega⟩

theorem exhaust_of_withStop {s : State} (h : s.cfg.stopOnExhaustion = true) (c : Cause) :
    s.exhaust c = { s with i2c := { s.i2c with cause := c, exh := true, ph := .stop } } := if_pos h

theorem exhaust_of_withoutStop {s : State} (h : s.cfg.stopOnExhaustion = false) (c : Cause) :
    s.exhaust c =
      { s with
        i2c := { s.i2c with cause := c, exh := true, done := true, ph := .idle }
        wire := { s.wire with isOpen := s.openAfterExhaustion c }
        env := { s.env with openScript := s.env.openScript.tail } } := by
  simp [State.exhaust, h]

/-- A conforming engine leaves the wire as it was after an address NACK (U11, R272; log 25). -/
theorem openAfterExhaustion_addrNack {s : State} (h : s.env.openScript = []) :
    s.openAfterExhaustion .addrNack = s.wire.isOpen := by
  simp [State.openAfterExhaustion, h]

/-- Settles O39: the exhaustion branch of table R232 for either retryable event. -/
theorem exhaustionSkipsStop : Obligations.ExhaustionSkipsStop := by
  intro s c hs hn hevent
  have hstep : i2cUnitStep s = .next (s.complete.exhaust c) := by
    obtain ⟨hd, rfl⟩ | ⟨hd, rfl⟩ := hevent
    · exact i2cUnitStep_of_exhaust hs hd (by decide) hn
    · exact i2cUnitStep_of_exhaust hs hd (by decide) hn
  rw [hstep]
  refine ⟨fun hstop => ?_, fun hstop => congrArg _ (exhaust_of_withStop (s := s.complete) hstop c)⟩
  rw [exhaust_of_withoutStop (s := s.complete) hstop]
  refine ⟨_, rfl, rfl, fun hc hscript => ?_⟩
  subst hc
  have hopen := openAfterExhaustion_addrNack (s := s.complete) hscript
  rw [hopen]
  rfl

/-- Settles O41: the STOP step (R159). -/
theorem stopPhaseCompletesCommand : Obligations.StopPhaseCompletesCommand := by
  intro s hph
  exact ⟨s.stopStep, i2cUnitStep_of_stop hph, rfl, rfl, rfl, rfl, rfl, sameUartSide_refl s⟩

/-- SUCCESS in a phase that receives no byte (R155). -/
theorem succeed_of_not_rdata {s : State} (h : s.i2c.ph ≠ .rdata) :
    s.succeed = { s with i2c := { s.i2c with ok := true, cause := .ok, ph := .stop } } := by
  simp [State.succeed, h]

/-- SUCCESS in phase RDATA (R158). -/
theorem succeed_of_rdata {s : State} (h : s.i2c.ph = .rdata) :
    s.succeed = { s with i2c := { s.i2c with rdata := s.tw.dr, ok := true, cause := .ok, ph := .stop } } := by
  simp [State.succeed, h]

/-- Settles O42: the row of WDATA in table R148, and its two outcomes (R127, R155). -/
theorem valuePhaseOutcome : Obligations.ValuePhaseOutcome := by
  refine ⟨fun s hph hw => issuesWith_of_phase hph hw rfl, fun s hs hph => ⟨fun hst => ?_, fun hst => ?_⟩⟩
  · have hd : outcomeNow s = .success := by simp [outcomeNow, hph, decodeStatus, hst]
    rw [i2cUnitStep_of_success hs hd, succeed_of_not_rdata (s := s.complete) (by simp [State.complete, hph])]
    rfl
  · exact i2cUnitStep_of_abort hs (by simp [outcomeNow, hph, decodeStatus, hst])

/-- Settles O43: the row of RDATA in table R148, and its two outcomes (R129, R158). -/
theorem receivePhaseOutcome : Obligations.ReceivePhaseOutcome := by
  refine ⟨fun s hph hw => issuesWith_of_phase hph hw rfl, fun s hs hph => ⟨fun hst => ?_, fun hst => ?_⟩⟩
  · have hd : outcomeNow s = .success := by simp [outcomeNow, hph, decodeStatus, hst]
    rw [i2cUnitStep_of_success hs hd, succeed_of_rdata (s := s.complete) hph]
    rfl
  · exact i2cUnitStep_of_abort hs (by simp [outcomeNow, hph, decodeStatus, hst])

/-! ### The decoder's retries and successes -/

theorem distinct3_iff (a b c : Byte) : distinct3 a b c = true ↔ a ≠ b ∧ a ≠ c ∧ b ≠ c := by
  simp only [distinct3, Bool.and_eq_true, decide_eq_true_eq, and_assoc]

/-- What R92 demands of the codes tested within one phase: START and RSTART, SLAW, SLAR. -/
theorem distinct_of_codesLegal {k : StatusCodes} (h : codesLegal k = true) :
    (k.start ≠ k.repStart ∧ k.start ≠ k.arbLost ∧ k.repStart ≠ k.arbLost) ∧
    (k.mtSlaNack ≠ k.arbLost ∧ k.mtSlaNack ≠ k.mtSlaAck ∧ k.arbLost ≠ k.mtSlaAck) ∧
    (k.mrSlaAck ≠ k.mrSlaNack ∧ k.mrSlaAck ≠ k.arbLost ∧ k.mrSlaNack ≠ k.arbLost) := by
  simp only [codesLegal, Bool.and_eq_true, distinct3_iff] at h
  obtain ⟨⟨⟨_, hstart⟩, hslaw⟩, hslar⟩ := h
  exact ⟨hstart, hslaw, hslar⟩

/-- Phases START and RSTART (R124). -/
theorem decodeStart_spec (k : StatusCodes) (st : Byte) :
    (decodeStart k st = .raise .arbLost ↔ st = k.arbLost) ∧ decodeStart k st ≠ .raise .addrNack ∧
      decodeStart k st ≠ .success := by
  unfold decodeStart
  split_ifs with h <;> simp [h]

/-- Phase SLAW (R125): the tests exclude one another. -/
theorem decodeSlaw_spec {k : StatusCodes} (st : Byte) (h : k.mtSlaNack ≠ k.arbLost) :
    (decodeSlaw k st = .raise .arbLost ↔ st = k.arbLost) ∧ (decodeSlaw k st = .raise .addrNack ↔ st = k.mtSlaNack) ∧
      decodeSlaw k st ≠ .success := by
  unfold decodeSlaw
  split_ifs with h1 h2 <;> simp_all

/-- Phase SLAR (R126): the tests exclude one another. -/
theorem decodeSlar_spec {k : StatusCodes} (st : Byte) (h1 : k.mrSlaAck ≠ k.mrSlaNack) (h2 : k.mrSlaAck ≠ k.arbLost)
    (h3 : k.mrSlaNack ≠ k.arbLost) :
    (decodeSlar k st = .raise .arbLost ↔ st = k.arbLost) ∧ (decodeSlar k st = .raise .addrNack ↔ st = k.mrSlaNack) ∧
      decodeSlar k st ≠ .success := by
  unfold decodeSlar
  split_ifs with h4 h5 h6 <;> simp_all

/-- Settles O45, phase by phase: the phases with a decoder of their own by their lemmas, the others have one test. -/
theorem retryablePhases : Obligations.RetryablePhases := by
  intro k p st hk
  obtain ⟨_, ⟨hslaw, _, _⟩, hslar1, hslar2, hslar3⟩ := distinct_of_codesLegal hk
  cases p with
  | start | rstart => simp [decodeStatus, decodeStart_spec k st]
  | slaw => simp [decodeStatus, decodeSlaw_spec st hslaw]
  | slar => simp [decodeStatus, decodeSlar_spec st hslar1 hslar2 hslar3]
  | addrHi | addrLo | wdata | rdata =>
    simp only [decodeStatus]
    split_ifs with hst <;> simp [hst]
  | idle | stop => simp [decodeStatus]

/-! ### The low status bits -/

theorem takeEvent_trace (s : State) (e : Event) : (s.takeEvent e).i2cTrace = s.i2cTrace := by
  obtain ⟨_, h⟩ | ⟨_, _, h⟩ | ⟨_, _, h⟩ := takeEvent_cases s e <;> rw [h]
  · rfl
  · rfl
  · obtain ⟨_, hx⟩ | ⟨_, hx⟩ := exhaust_cases s (causeOf e) <;> rw [hx]

section Congr

variable {s s' t : State} (hcfg : s'.cfg = s.cfg) (hi2c : s'.i2c = s.i2c)
include hcfg hi2c

/-- What an event makes of the unit depends on the unit and the parameters only (R232). -/
theorem takeEvent_congr (e : Event) : (s'.takeEvent e).i2c = (s.takeEvent e).i2c := by
  have hexhaust (c : Cause) : (s'.exhaust c).i2c = (s.exhaust c).i2c := by
    simp only [State.exhaust, hcfg, hi2c]
    split_ifs <;> rfl
  have hretry : (if s'.i2c.n < Config.retries then s'.retry (causeOf e) else s'.exhaust (causeOf e)).i2c =
      (if s.i2c.n < Config.retries then s.retry (causeOf e) else s.exhaust (causeOf e)).i2c := by
    rw [hi2c]
    split_ifs
    · simp only [State.retry, hi2c]
    · exact hexhaust _
  cases e with
  | protocol => simp only [State.takeEvent, State.abort, hi2c]
  | arbLost | addrNack => exact hretry

/-- What an outcome makes of the unit depends on the unit, the parameters and the received byte only; the trace it leaves. -/
theorem applyOutcome_congr (hdr : s'.tw.dr = s.tw.dr) (h : applyOutcome s = .next t) :
    ∃ u, applyOutcome s' = .next u ∧ u.i2c = t.i2c ∧ u.i2cTrace = s'.i2cTrace ∧ t.i2cTrace = s.i2cTrace := by
  have hdecode : decodeStatus s'.cfg.codes s'.i2c.ph s'.i2c.st = decodeStatus s.cfg.codes s.i2c.ph s.i2c.st := by
    rw [hcfg, hi2c]
  obtain ⟨q, hd, hq, rfl⟩ | ⟨hd, rfl⟩ | ⟨e, hd, rfl⟩ := applyOutcome_next h
  · have hq' : nextPhase s'.i2c.op s'.i2c.ph = some q := by rw [hi2c, hq]
    exact ⟨_, applyOutcome_of_continue (hdecode.trans hd) hq', by simp only [hi2c], rfl, rfl⟩
  · refine ⟨s'.succeed, by simp only [applyOutcome, hdecode, hd], ?_, rfl, rfl⟩
    simp only [State.succeed, hi2c, hdr]
  · exact ⟨_, applyOutcome_of_raise (hdecode.trans hd), takeEvent_congr hcfg hi2c e, takeEvent_trace s' e,
      takeEvent_trace s e⟩

end Congr

/-- The state with another raw status on the engine port. -/
def withStatus (s : State) (raw : Byte) : State := { s with tw := { s.tw with status := raw } }

/-- Latching a status looks at its masked value only (R104, R120). -/
theorem complete_withStatus_i2c {s : State} {raw : Byte} (h : maskStatus raw = maskStatus s.tw.status) :
    (withStatus s raw).complete.i2c = s.complete.i2c := by
  simp only [State.complete, withStatus, h]

theorem driven_complete (s : State) : driven s.complete.i2cTrace = driven s.i2cTrace := by
  simp [State.complete, driven_append, driven]

/-- Settles O46: only a completion step reads the status, and it latches the masked value and decodes the latch. -/
theorem lowStatusBitsIgnored : Obligations.LowStatusBitsIgnored := by
  intro s t raw hraw h
  change ∃ u, i2cUnitStep (withStatus s raw) = .next u ∧ _
  obtain ⟨hph, rfl⟩ | ⟨hph, rfl⟩ | ⟨h1, h2, hw, rfl⟩ | ⟨h1, h2, hw, hcf, rfl⟩ | ⟨h1, h2, hw, hcf, ht⟩ :=
    i2cUnitStep_next h
  · exact ⟨withStatus t raw, by simp [i2cUnitStep, withStatus, hph], rfl, rfl⟩
  · exact ⟨(withStatus s raw).stopStep, i2cUnitStep_of_stop hph, rfl, rfl⟩
  · have hissue := i2cUnitStep_of_issue (s := withStatus s raw) ((waited_iff _).mpr ⟨h1, h2⟩) hw
    rw [issueStep_eq (s := withStatus s raw) hw] at hissue
    rw [issueStep_eq hw]
    exact ⟨_, hissue, rfl, rfl⟩
  · exact ⟨withStatus t raw, i2cUnitStep_of_poll ((waited_iff _).mpr ⟨h1, h2⟩) hw hcf, rfl, rfl⟩
  · have hs : Completing (withStatus s raw) := ⟨(waited_iff _).mpr ⟨h1, h2⟩, hw, hcf⟩
    obtain ⟨u, hu, hi2c, hu_trace, ht_trace⟩ :=
      applyOutcome_congr (s := s.complete) (s' := (withStatus s raw).complete) rfl (complete_withStatus_i2c hraw) rfl ht
    refine ⟨u, (i2cUnitStep_of_completing hs).trans hu, hi2c, ?_⟩
    rw [hu_trace, ht_trace, driven_complete, driven_complete]
    rfl

end Sys2Proof.Machine
end

section
/-! The bound on the requests of a command (spec/20_memory.md R71; spec/42_i2c_transactions.md R167). -/

namespace Sys2Proof.Machine

/-! ### Arithmetic of the budget -/

theorem budgetAt_stop (op : BitVec 2) (n : Nat) : budgetAt op n .stop = 1 := by
  simp [budgetAt, retryAhead, retryLeft, attemptLeft]

theorem budgetAt_of_busy (op : BitVec 2) (n : Nat) {p : Phase} (hp : p ≠ .idle) :
    budgetAt op n p =
      if retryLeft op p ≠ 0 ∧ n < 5 then retryLeft op p + (4 - n) * retryLeft op .start + attemptLeft op .start + 1
      else attemptLeft op p + 1 := by
  cases p with
  | idle => contradiction
  | _ => simp [budgetAt, retryAhead]

theorem budgetAt_idle (op : BitVec 2) (n : Nat) : budgetAt op n .idle = 0 := rfl

theorem nextPhase_ne_idle (op : BitVec 2) (p : Phase) : nextPhase op p ≠ some .idle := by
  cases p with
  | addrLo =>
    simp only [nextPhase]
    split_ifs <;> nofun
  | _ => nofun

/-- A full attempt makes more requests than any rest of one, and a waited phase makes its own. -/
theorem attemptLeft_bounds {op : BitVec 2} {p : Phase} (hop : op = 1#2 ∨ op = 2#2) (hp : p.waited = true) :
    1 ≤ attemptLeft op p ∧ (opFits op p = true → attemptLeft op p ≤ attemptLeft op .start) := by
  obtain rfl | rfl := hop <;> cases p <;> revert hp <;> decide

/-- Going to the next phase leaves one request fewer, of the attempt and, if one is ahead, of the way to a retry. -/
theorem left_next {op : BitVec 2} {p q : Phase} (hop : op = 1#2 ∨ op = 2#2) (hq : nextPhase op p = some q) :
    attemptLeft op q + 1 = attemptLeft op p ∧ (retryLeft op q ≠ 0 → retryLeft op q + 1 = retryLeft op p) := by
  obtain rfl | rfl := hop <;> cases p <;> cases q <;> revert hq <;> decide

/-- A waited phase still makes its own request and that of STOP. -/
theorem two_le_budgetAt {op : BitVec 2} (n : Nat) {p : Phase} (hop : op = 1#2 ∨ op = 2#2) (hp : p.waited = true) :
    2 ≤ budgetAt op n p := by
  obtain ⟨hleft, _⟩ := attemptLeft_bounds hop hp
  obtain ⟨hstart, _⟩ := attemptLeft_bounds hop (p := .start) rfl
  obtain ⟨hbusy, _⟩ := (waited_iff p).mp hp
  rw [budgetAt_of_busy op n hbusy]
  split_ifs <;> omega

/-- CONTINUE spends the request of the phase (R147). -/
theorem budgetAt_next {op : BitVec 2} (n : Nat) {p q : Phase} (hp : p.waited = true) (hfits : opFits op p = true)
    (hq : nextPhase op p = some q) : budgetAt op n q + 1 ≤ budgetAt op n p := by
  obtain ⟨hbusy, _⟩ := (waited_iff p).mp hp
  have hop := opcode_of_opFits hfits hbusy
  have hqbusy : q ≠ .idle := fun hidle => nextPhase_ne_idle op p (hidle ▸ hq)
  obtain ⟨hattempt, hretry⟩ := left_next hop hq
  obtain ⟨_, hfull⟩ := attemptLeft_bounds hop hp
  have := hfull hfits
  rw [budgetAt_of_busy op n hbusy, budgetAt_of_busy op n hqbusy]
  split_ifs with h1 h2 h2
  · have := hretry h1.1
    omega
  · exact absurd ⟨by have := hretry h1.1; omega, h1.2⟩ h2
  · generalize (4 - n) * retryLeft op .start = m
    omega
  · omega

/-- A retryable event comes from one of the four phases with a retry (R124 to R126). -/
theorem retryLeft_of_raise {k : StatusCodes} {op : BitVec 2} {p : Phase} {st : Byte} {e : Event}
    (hfits : opFits op p = true) (hd : decodeStatus k p st = .raise e) (he : e ≠ .protocol) : retryLeft op p ≠ 0 := by
  have not_raised {c : Prop} [Decidable c] {o : DecodeOutcome} (ho : o = .continue_ ∨ o = .success)
      (h : (if c then o else .raise .protocol) = .raise e) : False := by
    split_ifs at h
    · obtain rfl | rfl := ho <;> cases h
    · cases h
      exact he rfl
  cases p with
  | start | slaw | rstart | slar =>
    obtain rfl | rfl := opcode_of_opFits hfits (by decide) <;> revert hfits <;> decide
  | addrHi | addrLo => exact (not_raised (.inl rfl) hd).elim
  | wdata | rdata => exact (not_raised (.inr rfl) hd).elim
  | idle | stop =>
    cases hd
    exact absurd rfl he

/-- A retry spends at least the request of the phase: one retried attempt fewer is left (R160). -/
theorem budgetAt_retry {op : BitVec 2} {n : Nat} {p : Phase} (hp : p ≠ .idle)
    (hretry : retryLeft op p ≠ 0) (hn : n < 5) : budgetAt op (n + 1) .start + 1 ≤ budgetAt op n p := by
  rw [budgetAt_of_busy op n hp, if_pos ⟨hretry, hn⟩, budgetAt_of_busy op (n + 1) (by decide)]
  split_ifs
  · have hsub : 4 - n = (4 - (n + 1)) + 1 := by omega
    rw [hsub, Nat.add_one_mul]
    omega
  · omega

/-! ### Steps and the budget -/

theorem requests_done (l : List I2cEvent) (st d : Byte) : requests (l ++ [.done st d]) = requests l := by
  simp [requests_append, requests]

theorem requests_load (l : List I2cEvent) (b : Option Byte) (c : Cond) :
    requests (l ++ (b.map I2cEvent.wrDr).toList ++ [.req c]) = requests l + 1 := by
  cases b <;> simp [requests_append, requests]

/-- The issue step spends the request it makes (R145). -/
theorem requestBudget_issued {u : I2cUnit} (hop : u.op = 1#2 ∨ u.op = 2#2) (hp : u.ph.waited = true) (hw : u.w = false) :
    requestBudget { u with w := true } + 1 = requestBudget u := by
  have := two_le_budgetAt u.n.toNat hop hp
  simp only [requestBudget, hw]
  simp
  omega

/-- With the wait bit set one request of the phase's budget is made. -/
theorem requestBudget_of_completing {s : State} (hs : Completing s) :
    requestBudget s.i2c = budgetAt s.i2c.op s.i2c.n.toNat s.i2c.ph - 1 := by
  simp [requestBudget, hs.wait]

theorem requestBudget_of_not_waiting {u : I2cUnit} (hw : u.w = false) :
    requestBudget u = budgetAt u.op u.n.toNat u.ph := by
  simp [requestBudget, hw]

/-- Every outcome of a completion step spends at least the request made in the phase. -/
theorem requestBudget_completed {s t : State} (h : I2cInv s.cfg s.i2c) (hs : Completing s)
    (ht : i2cUnitStep s = .next t) : requestBudget t.i2c ≤ requestBudget s.i2c := by
  obtain ⟨hbusy, hnotStop⟩ := (waited_iff _).mp hs.phase
  have hop := h.opcode_of_busy hbusy
  have htwo := two_le_budgetAt s.i2c.n.toNat hop hs.phase
  have spent {u : I2cUnit} (hi2c : t.i2c = u) (hw : u.w = false)
      (hle : budgetAt u.op u.n.toNat u.ph + 1 ≤ budgetAt s.i2c.op s.i2c.n.toNat s.i2c.ph) :
      requestBudget t.i2c ≤ requestBudget s.i2c := by
    rw [hi2c, requestBudget_of_not_waiting hw, requestBudget_of_completing hs]
    omega
  have to_stop : budgetAt s.i2c.op s.i2c.n.toNat .stop + 1 ≤ budgetAt s.i2c.op s.i2c.n.toNat s.i2c.ph := by
    rw [budgetAt_stop]
    exact htwo
  have to_idle : budgetAt s.i2c.op s.i2c.n.toNat .idle + 1 ≤ budgetAt s.i2c.op s.i2c.n.toNat s.i2c.ph := by
    rw [budgetAt_idle]
    omega
  cases i2cStep_cases ht with
  | stay _ ht => rw [ht]
  | stop hph _ => exact absurd hph hnotStop
  | issue _ hw _ => simp [hs.wait] at hw
  | continue_ q _ _ hq ht => exact spent (congrArg State.i2c ht) rfl (budgetAt_next _ hs.phase h.opcode hq)
  | success _ _ ht => exact spent (congrArg State.i2c ht) rfl to_stop
  | abort _ _ ht => exact spent (congrArg State.i2c ht) rfl to_stop
  | exhaustStop _ _ _ _ _ _ ht => exact spent (congrArg State.i2c ht) rfl to_stop
  | exhaust _ _ _ _ _ _ ht => exact spent (congrArg State.i2c ht) rfl to_idle
  | retry e _ hd he hn ht =>
    have hbound : s.i2c.n.toNat < 5 := hn
    have hcount : (s.i2c.n + 1#3).toNat = s.i2c.n.toNat + 1 := by bv_omega
    have hle := budgetAt_retry hbusy (retryLeft_of_raise h.opcode hd he) hbound
    rw [← hcount] at hle
    exact spent (congrArg State.i2c ht) rfl hle

/-- A completion step of any outcome: the wait bit cleared, the engine's answer in the trace, the script as it was; and an
idle unit is done (R146, R161). -/
theorem completion_spec {s t : State} (hs : Completing s) (ht : i2cUnitStep s = .next t) :
    t.i2c.w = false ∧ t.env.twScript = s.env.twScript ∧ t.i2cTrace = s.i2cTrace ++ [.done s.tw.status s.tw.dr] ∧
      (t.i2c.ph = .idle → t.i2c.done = true) := by
  obtain ⟨hbusy, hnotStop⟩ := (waited_iff _).mp hs.phase
  cases i2cStep_cases ht with
  | stay hno _ =>
    obtain hidle | ⟨_, hcf⟩ := hno
    · exact absurd hidle hbusy
    · simp [hs.flag] at hcf
  | stop hph _ => exact absurd hph hnotStop
  | issue _ hw _ => simp [hs.wait] at hw
  | continue_ q _ _ hq ht =>
    subst ht
    refine ⟨rfl, rfl, rfl, fun hidle => ?_⟩
    have hq' : q = .idle := hidle
    exact absurd (hq' ▸ hq) (nextPhase_ne_idle _ _)
  | success _ _ ht | abort _ _ ht | retry _ _ _ _ _ ht | exhaustStop _ _ _ _ _ _ ht =>
    subst ht
    exact ⟨rfl, rfl, rfl, nofun⟩
  | exhaust _ _ _ _ _ _ ht =>
    subst ht
    exact ⟨rfl, rfl, rfl, fun _ => rfl⟩

/-- Settles O47: the issue step and the STOP step each make one request and spend one, a completion step makes none. -/
theorem requestsStayInBudget : Obligations.RequestsStayInBudget := by
  refine ⟨fun s t h ht => ?_, fun u dev daddr addr v => ⟨rfl, rfl⟩⟩
  have completed (hs : Completing s) :
      requests t.i2cTrace + requestBudget t.i2c ≤ requests s.i2cTrace + requestBudget s.i2c := by
    obtain ⟨_, _, htrace, _⟩ := completion_spec hs ht
    have := requestBudget_completed h.i2c hs ht
    rw [htrace, requests_done]
    omega
  cases i2cStep_cases ht with
  | stay _ ht => rw [ht]
  | stop hph ht =>
    have hw : s.i2c.w = false := Bool.eq_false_of_not_eq_true fun hw => by
      simpa [hph, Phase.waited] using h.i2c.waitBit hw
    subst ht
    have hafter : requestBudget s.stopStep.i2c = 0 := Nat.zero_sub _
    have hrequest : requests s.stopStep.i2cTrace = requests s.i2cTrace + 1 := requests_append s.i2cTrace [.req .stop]
    rw [requestBudget_of_not_waiting hw, hph, budgetAt_stop, hafter, hrequest]
  | issue hp hw ht =>
    obtain rfl := ht.trans (issueStep_eq hw)
    have hop := h.i2c.opcode_of_busy ((waited_iff _).mp hp).1
    have := requestBudget_issued hop hp hw
    simp only [requests_load]
    omega
  | continue_ _ hs | success hs | abort hs | retry _ hs | exhaustStop _ hs | exhaust _ hs => exact completed hs

end Sys2Proof.Machine
end

section
/-! Whole transactions on a bus that answers at once (spec/42_i2c_transactions.md R163 to R167): a run is followed from one
phase to the next, two steps for each request, and what it has driven is collected. -/

namespace Sys2Proof.Machine

/-! ### One request and its answer -/

/-- A command runs undisturbed and is between two requests; the engine's answers to come are the given ones. -/
structure Answering (s : State) (script : List Answer) : Prop where
  legal : configLegal s.cfg = true
  noRst : s.env.rst = []
  notWaiting : s.i2c.w = false
  script : s.env.twScript = script

/-- What the unit sends in a phase: its load, then its request (R148). -/
def sentIn (u : I2cUnit) (p : Phase) : List I2cEvent := ((loadOf u p).map I2cEvent.wrDr).toList ++ [.req (condOf p)]

theorem driven_sentIn (u : I2cUnit) (p : Phase) : driven (sentIn u p) = sentIn u p := by
  unfold sentIn
  cases loadOf u p <;> rfl

/-- `v` is the state in which the engine has answered with `a` the request made in `s`, before the unit's completion step. -/
structure Answered (s v : State) (a : Answer) (rest : List Answer) : Prop where
  cfg : v.cfg = s.cfg
  unit : v.i2c = { s.i2c with w := true }
  flag : v.tw.cf = true
  status : v.tw.status = a.status
  received : ∀ b, a.dr = some b → v.tw.dr = b
  noRst : v.env.rst = []
  script : v.env.twScript = rest
  trace : v.i2cTrace = s.i2cTrace ++ sentIn s.i2c s.i2c.ph

theorem runFor_succ {s t : State} (h : step s = .next t) (k : Nat) : runFor (k + 1) s = runFor k t := by
  simp only [runFor, h]

/-- In a waited phase the unit requests, the engine answers at once, and the next step is the unit's completion step. -/
theorem answered_round {s : State} {a : Answer} {rest : List Answer} (h : Answering s (a :: rest))
    (ha : a.delay = some 0) (hp : s.i2c.ph.waited = true) :
    ∃ t v, step s = .next t ∧ step t = i2cUnitStep v ∧ Answered s v a rest := by
  obtain ⟨hlegal, hrst, hw, hscript⟩ := h
  obtain ⟨hbusy, _⟩ := (waited_iff _).mp hp
  have hwtick : s.tick.i2c.w = false := by rw [tick_i2c, hw]
  have hissue := issueStep_eq hwtick
  refine ⟨s.tick.issueStep, s.tick.issueStep.tick, ?_, ?_, ?_⟩
  · rw [step_of_i2c_busy hlegal (rstDue_of_noRst hrst) hbusy]
    exact i2cUnitStep_of_issue (by rwa [tick_i2c]) hwtick
  · rw [hissue]
    refine step_of_i2c_busy (by simpa using hlegal) (rstDue_of_noRst ?_) (by simpa using hbusy)
    exact tick_noRst s hrst
  · have hcur : s.tick.issueStep.env.twCur = some ⟨condOf s.i2c.ph, a⟩ := by
      rw [hissue]
      simp [operationOf, hscript]
    obtain ⟨hcf, hstatus, hdr, _⟩ := tick_answer s.tick.issueStep _ hcur ha
    refine ⟨?_, ?_, hcf, hstatus, ?_, ?_, ?_, ?_⟩
    · simp [hissue]
    · simp [hissue]
    · intro b hb
      rw [hdr, hb]
      rfl
    · refine tick_noRst _ ?_
      rw [hissue]
      exact tick_noRst s hrst
    · simp [hissue, hscript]
    · simp [hissue, sentIn]

section Answered

variable {s v : State} {a : Answer} {rest : List Answer} (h : Answered s v a rest)
include h

theorem Answered.completing (hp : s.i2c.ph.waited = true) : Completing v := by
  refine ⟨?_, ?_, h.flag⟩
  · rw [h.unit]
    exact hp
  · rw [h.unit]

/-- The latch after the answer, for a unit that was not waiting. -/
theorem Answered.latched (hw : s.i2c.w = false) : latched v = { s.i2c with st := maskStatus a.status } := by
  rw [Machine.latched, h.unit, h.status, ← hw]

theorem Answered.outcome : outcomeNow v = decodeStatus s.cfg.codes s.i2c.ph (maskStatus a.status) := by
  rw [outcomeNow, h.cfg, h.unit, h.status]

end Answered

/-! ### Runs from phase to phase -/

/-- After `k` steps the run from `s` is at a state with the unit `u`, between two requests, with the answers `script` to
come, and has driven `log` since `s`. -/
def Reaches (s : State) (k : Nat) (u : I2cUnit) (script : List Answer) (log : List I2cEvent) : Prop :=
  ∃ t, (∀ j, runFor (k + j) s = runFor j t) ∧ Answering t script ∧ t.cfg = s.cfg ∧ t.i2c = u ∧
    driven t.i2cTrace = driven s.i2cTrace ++ log

theorem reaches_self {s : State} {script : List Answer} (h : Answering s script) : Reaches s 0 s.i2c script [] :=
  ⟨s, fun j => by rw [Nat.zero_add], h, rfl, rfl, (List.append_nil _).symm⟩

theorem Reaches.run {s : State} {k : Nat} {u : I2cUnit} {script : List Answer} {log : List I2cEvent}
    (h : Reaches s k u script log) :
    ∃ t, runFor k s = .next t ∧ t.i2c = u ∧ driven t.i2cTrace = driven s.i2cTrace ++ log := by
  obtain ⟨t, hrun, _, _, hunit, hlog⟩ := h
  exact ⟨t, hrun 0, hunit, hlog⟩

section Reaches

variable {s : State} {k : Nat} {u : I2cUnit} {a : Answer} {script rest : List Answer} {log : List I2cEvent} {code : Byte}

/-- A waited phase on a bus that answers at once: two steps later the unit is as its completion step leaves it. -/
theorem Reaches.complete (h : Reaches s k u (a :: rest) log) (ha : a.delay = some 0) (hp : u.ph.waited = true) :
    ∃ v, Completing v ∧ v.cfg = s.cfg ∧ v.i2c = { u with w := true } ∧ (∀ b, a.dr = some b → v.tw.dr = b) ∧
      latched v = { u with st := maskStatus a.status } ∧
      outcomeNow v = decodeStatus s.cfg.codes u.ph (maskStatus a.status) ∧
      ∀ x, i2cUnitStep v = .next x → Reaches s (k + 2) x.i2c rest (log ++ sentIn u u.ph) := by
  obtain ⟨t, hrun, hanswering, hcfg, rfl, hlog⟩ := h
  obtain ⟨t', v, hissue, hstep, hv⟩ := answered_round hanswering ha hp
  have hs := hv.completing hp
  refine ⟨v, hs, hv.cfg.trans hcfg, hv.unit, hv.received, hv.latched hanswering.notWaiting, hcfg ▸ hv.outcome,
    fun x hx => ?_⟩
  obtain ⟨hcfg', _⟩ := i2cUnitStep_sameUartSide hx
  obtain ⟨_, _, hrst'⟩ := i2cUnitStep_env hx
  obtain ⟨hw', hscript', htrace', _⟩ := completion_spec hs hx
  refine ⟨x, fun j => ?_, ⟨?_, hrst'.trans hv.noRst, hw', hscript'.trans hv.script⟩, ?_, rfl, ?_⟩
  · rw [Nat.add_assoc, hrun, Nat.add_comm 2 j, runFor_succ hissue, runFor_succ (hstep.trans hx)]
  · rw [hcfg', hv.cfg]
    exact hanswering.legal
  · rw [hcfg', hv.cfg, hcfg]
  · rw [htrace', hv.trace, driven_append, driven_append, driven_sentIn, hlog]
    simp [driven]

theorem Reaches.continue_ {st : Byte} {p q : Phase} (h : Reaches s k { u with st := st, ph := p } (a :: rest) log)
    (ha : answersAtOnce a code) (hp : p.waited = true) (hd : decodeStatus s.cfg.codes p code = .continue_)
    (hq : nextPhase u.op p = some q) :
    Reaches s (k + 2) { u with st := code, ph := q } rest (log ++ sentIn u p) := by
  obtain ⟨hdelay, rfl⟩ := ha
  obtain ⟨v, hs, _, hunit, _, hlatch, hout, hnext⟩ := h.complete hdelay hp
  have hx := hnext _ (i2cUnitStep_of_continue hs (hout.trans hd) (by rw [hunit]; exact hq))
  rw [hlatch] at hx
  exact hx

/-- The last byte of a write is acknowledged (R155). -/
theorem Reaches.written {st : Byte} (h : Reaches s k { u with st := st, ph := .wdata } (a :: rest) log)
    (ha : answersAtOnce a s.cfg.codes.mtDataAck) :
    Reaches s (k + 2) { u with st := s.cfg.codes.mtDataAck, ok := true, cause := .ok, ph := .stop } rest
      (log ++ sentIn u .wdata) := by
  obtain ⟨hdelay, hcode⟩ := ha
  obtain ⟨v, hs, _, hunit, _, hlatch, hout, hnext⟩ := h.complete hdelay rfl
  have hd : outcomeNow v = .success := by simp [hout, hcode, decodeStatus]
  have hx := hnext _ (i2cUnitStep_of_success hs hd)
  rw [succeed_of_not_rdata (s := v.complete) (by simp [State.complete, hunit])] at hx
  change Reaches s (k + 2) { latched v with ok := true, cause := .ok, ph := .stop } rest _ at hx
  rw [hlatch, hcode] at hx
  exact hx

/-- The byte of a read arrives with the read-NACK status (R158). -/
theorem Reaches.received {st b : Byte} (h : Reaches s k { u with st := st, ph := .rdata } (a :: rest) log)
    (ha : answersAtOnce a s.cfg.codes.mrDataNack) (hb : a.dr = some b) :
    Reaches s (k + 2) { u with st := s.cfg.codes.mrDataNack, rdata := b, ok := true, cause := .ok, ph := .stop } rest
      (log ++ sentIn u .rdata) := by
  obtain ⟨hdelay, hcode⟩ := ha
  obtain ⟨v, hs, _, hunit, hdr, hlatch, hout, hnext⟩ := h.complete hdelay rfl
  have hd : outcomeNow v = .success := by simp [hout, hcode, decodeStatus]
  have hx := hnext _ (i2cUnitStep_of_success hs hd)
  rw [succeed_of_rdata (s := v.complete) (by simp [State.complete, hunit])] at hx
  change Reaches s (k + 2) { latched v with rdata := v.tw.dr, ok := true, cause := .ok, ph := .stop } rest _ at hx
  rw [hlatch, hcode, hdr b hb] at hx
  exact hx

/-- The STOP step (R159). -/
theorem Reaches.stop (h : Reaches s k u script log) (hph : u.ph = .stop) :
    Reaches s (k + 1) { u with st := 0#8, done := true, ph := .idle } script (log ++ [.req .stop]) := by
  obtain ⟨t, hrun, ⟨hlegal, hrst, hw, hscript⟩, hcfg, rfl, hlog⟩ := h
  have hstep : step t = .next t.tick.stopStep := by
    rw [step_of_i2c_busy hlegal (rstDue_of_noRst hrst) (by simp [hph])]
    exact i2cUnitStep_of_stop (by rwa [tick_i2c])
  have hcfg' : t.tick.stopStep.cfg = t.cfg := by simp
  have hunit' : t.tick.stopStep.i2c = { t.i2c with st := 0#8, done := true, ph := .idle } := by simp
  have htrace' : t.tick.stopStep.i2cTrace = t.i2cTrace ++ [.req .stop] := by simp
  have hrst' : t.tick.stopStep.env.rst = [] := by simpa using tick_noRst t hrst
  refine ⟨t.tick.stopStep, fun j => ?_, ⟨hcfg' ▸ hlegal, hrst', ?_, ?_⟩, hcfg'.trans hcfg, hunit', ?_⟩
  · rw [Nat.add_assoc, hrun, Nat.add_comm 1 j, runFor_succ hstep]
  · rw [hunit', hw]
  · simpa using hscript
  · rw [htrace', driven_append, hlog, List.append_assoc]
    rfl

section Lost

variable {st : Byte} {c : Cause} {n : BitVec 3}
  (h : Reaches s k { u with st := st, cause := c, n := n, ph := .start } (a :: rest) log)
  (ha : answersAtOnce a s.cfg.codes.arbLost)
include h ha

/-- A START that loses the arbitration below the bound (R160). -/
theorem Reaches.lost (hn : n < Config.retries) :
    Reaches s (k + 2) { u with st := s.cfg.codes.arbLost, cause := .arbLost, n := n + 1#3, ph := .start } rest
      (log ++ [.req .start]) := by
  obtain ⟨hdelay, hcode⟩ := ha
  obtain ⟨v, hs, _, hunit, _, hlatch, hout, hnext⟩ := h.complete hdelay rfl
  have hd : outcomeNow v = .raise .arbLost := by simp [hout, hcode, decodeStatus, decodeStart]
  have hx := hnext _ (i2cUnitStep_of_retry hs hd (by decide) (by rw [hunit]; exact hn))
  rw [hlatch, hcode, hunit] at hx
  exact hx

/-- A START that loses the arbitration on the last attempt, without `STOP_ON_EXHAUSTION` (R161). -/
theorem Reaches.exhausted (hn : n = 5#3) (hstop : s.cfg.stopOnExhaustion = false) :
    Reaches s (k + 2)
      { u with st := s.cfg.codes.arbLost, n := n, cause := .arbLost, exh := true, done := true, ph := .idle } rest
      (log ++ [.req .start]) := by
  obtain ⟨hdelay, hcode⟩ := ha
  obtain ⟨v, hs, hcfg, hunit, _, hlatch, hout, hnext⟩ := h.complete hdelay rfl
  have hd : outcomeNow v = .raise .arbLost := by simp [hout, hcode, decodeStatus, decodeStart]
  have hx := hnext _ (i2cUnitStep_of_exhaust hs hd (by decide) (by rw [hunit]; exact hn))
  rw [exhaust_of_withoutStop (s := v.complete) ((congrArg Config.stopOnExhaustion hcfg).trans hstop)] at hx
  change Reaches s (k + 2) { latched v with cause := .arbLost, exh := true, done := true, ph := .idle } rest _ at hx
  rw [hlatch, hcode] at hx
  exact hx

end Lost

/-! ### Termination -/

theorem Reaches.not_waiting (h : Reaches s k u script log) : u.w = false := by
  obtain ⟨t, _, hanswering, _, rfl, _⟩ := h
  exact hanswering.notWaiting

/-- With a request answered at once a waited phase ends two steps later, and the budget has fallen (R167). -/
theorem Reaches.spend (h : Reaches s k u (a :: rest) log) (hinv : I2cInv s.cfg u) (ha : a.delay = some 0)
    (hp : u.ph.waited = true) : ∃ u' log', Reaches s (k + 2) u' rest log' ∧ I2cInv s.cfg u' ∧
      requestBudget u' + 1 ≤ requestBudget u ∧ (u'.ph = .idle → u'.done = true) := by
  obtain ⟨v, hs, hcfg, hunit, _, _, _, hnext⟩ := h.complete ha hp
  have hbusy := ((waited_iff _).mp hp).1
  have hinv' : I2cInv v.cfg v.i2c := by
    rw [hcfg, hunit]
    exact hinv.issued hp
  obtain ⟨x, hx⟩ := i2cUnitStep_answers hinv' (by rw [hunit]; exact hbusy)
  have hissued := requestBudget_issued (hinv.opcode_of_busy hbusy) hp h.not_waiting
  have hcompleted := requestBudget_completed hinv' hs hx
  rw [hunit] at hcompleted
  obtain ⟨_, _, _, hdone⟩ := completion_spec hs hx
  exact ⟨x.i2c, _, hnext x hx, hcfg ▸ i2cUnitStep_keeps_i2cInv hinv' hx, by omega, hdone⟩

/-- By induction on a bound of the budget: every phase is STOP, which ends the command, or spends a request. -/
theorem Reaches.terminates (n : Nat) (h : Reaches s k u script log) (hinv : I2cInv s.cfg u) (hbusy : u.ph ≠ .idle)
    (hanswers : ∀ a ∈ script, a.delay = some 0) (henough : requestBudget u ≤ script.length)
    (hn : requestBudget u ≤ n) :
    ∃ k' u' script' log', k' ≤ k + 2 * requestBudget u ∧ Reaches s k' u' script' log' ∧ u'.ph = .idle ∧
      u'.done = true := by
  have hbudget := requestBudget_of_not_waiting h.not_waiting
  induction n generalizing k u script log with
  | zero =>
    by_cases hstop : u.ph = .stop
    · rw [hstop, budgetAt_stop] at hbudget
      omega
    · have := two_le_budgetAt u.n.toNat (hinv.opcode_of_busy hbusy) ((waited_iff _).mpr ⟨hbusy, hstop⟩)
      omega
  | succ n ih =>
    by_cases hstop : u.ph = .stop
    · rw [hstop, budgetAt_stop] at hbudget
      exact ⟨k + 1, _, _, _, by omega, h.stop hstop, rfl, rfl⟩
    · have hp := (waited_iff _).mpr ⟨hbusy, hstop⟩
      have := two_le_budgetAt u.n.toNat (hinv.opcode_of_busy hbusy) hp
      cases script with
      | nil =>
        have : requestBudget u ≤ 0 := henough
        omega
      | cons a rest =>
        obtain ⟨ha, hrest⟩ := List.forall_mem_cons.mp hanswers
        obtain ⟨u', log', h', hinv', hspent, hdone⟩ := h.spend hinv ha hp
        by_cases hidle : u'.ph = .idle
        · exact ⟨k + 2, u', rest, log', by omega, h', hidle, hdone hidle⟩
        · have hlen : requestBudget u ≤ rest.length + 1 := henough
          obtain ⟨k', u'', script', log'', hk, hend⟩ := ih h' hinv' hidle hrest (by omega) (by omega)
            (requestBudget_of_not_waiting h'.not_waiting)
          exact ⟨k', u'', script', log'', by omega, hend⟩

end Reaches

/-- Settles O48: the run followed to the end, the budget itself as the bound. -/
theorem answeredCommandCompletes : Obligations.AnsweredCommandCompletes := by
  intro s h hlegal hbusy hw hrst hanswers henough
  have hstart := reaches_self ⟨hlegal, hrst, hw, rfl⟩
  obtain ⟨k, u, _, _, hk, hend, hidle, hdone⟩ := hstart.terminates _ h.i2c hbusy hanswers henough le_rfl
  obtain ⟨t, hrun, rfl, _⟩ := hend.run
  exact ⟨k, t, by omega, hrun, hidle, hdone⟩

/-! ### Acknowledged transactions -/

theorem codesLegal_of_configLegal {c : Config} (h : configLegal c = true) : codesLegal c.codes = true := by
  simp only [configLegal, Bool.and_eq_true] at h
  obtain ⟨⟨_, hcodes⟩, _⟩ := h
  exact hcodes

section Acknowledged

variable {k : StatusCodes} (hk : codesLegal k = true)
include hk

/-- Phases START and RSTART (R124). -/
theorem decodeStart_of_acknowledged {st : Byte} (h : st = k.start ∨ st = k.repStart) : decodeStart k st = .continue_ := by
  obtain ⟨⟨_, hstart, hrep⟩, _, _⟩ := distinct_of_codesLegal hk
  have hnot : st ≠ k.arbLost := by
    obtain rfl | rfl := h
    · exact hstart
    · exact hrep
  simp [decodeStart, hnot, h]

/-- Phase SLAW (R125). -/
theorem decodeSlaw_of_acknowledged : decodeSlaw k k.mtSlaAck = .continue_ := by
  obtain ⟨_, ⟨_, hnack, harb⟩, _⟩ := distinct_of_codesLegal hk
  simp [decodeSlaw, hnack.symm, harb.symm]

end Acknowledged

/-- Phase SLAR (R126). -/
theorem decodeSlar_of_acknowledged (k : StatusCodes) : decodeSlar k k.mrSlaAck = .continue_ := by
  simp [decodeSlar]

/-- An answer to a START or repeated START that acknowledges it. -/
theorem exists_code_of_acknowledged {k : StatusCodes} {a : Answer}
    (h : answersAtOnce a k.start ∨ answersAtOnce a k.repStart) :
    ∃ code, answersAtOnce a code ∧ (code = k.start ∨ code = k.repStart) := by
  obtain h | h := h
  · exact ⟨_, h, .inl rfl⟩
  · exact ⟨_, h, .inr rfl⟩

theorem unit_of_phase {u : I2cUnit} {p : Phase} (hph : u.ph = p) : { u with st := u.st, ph := p } = u := by
  subst hph
  rfl

theorem unit_of_phase_n {u : I2cUnit} {p : Phase} {n : BitVec 3} (hph : u.ph = p) (hn : u.n = n) :
    { u with st := u.st, cause := u.cause, n := n, ph := p } = u := by
  subst hph hn
  rfl

/-- The part that write and read share: START, the address byte and both sub-address bytes, all acknowledged. -/
theorem reaches_addressed {s : State} {a0 a1 a2 a3 : Answer} {rest : List Answer}
    (h : Answering s (a0 :: a1 :: a2 :: a3 :: rest)) (hph : s.i2c.ph = .start)
    (h0 : answersAtOnce a0 s.cfg.codes.start ∨ answersAtOnce a0 s.cfg.codes.repStart)
    (h1 : answersAtOnce a1 s.cfg.codes.mtSlaAck) (h2 : answersAtOnce a2 s.cfg.codes.mtDataAck)
    (h3 : answersAtOnce a3 s.cfg.codes.mtDataAck) {q : Phase} (hq : nextPhase s.i2c.op .addrLo = some q) :
    Reaches s 8 { s.i2c with st := s.cfg.codes.mtDataAck, ph := q } rest
      [.req .start, .wrDr (slaw s.i2c.dev s.i2c.daddr), .req .data, .wrDr (addrHigh s.i2c.addr), .req .data,
       .wrDr (addrLow s.i2c.addr), .req .data] := by
  have hcodes := codesLegal_of_configLegal h.legal
  obtain ⟨code, h0, hcode⟩ := exists_code_of_acknowledged h0
  have r0 := reaches_self h
  rw [← unit_of_phase hph] at r0
  have r1 := r0.continue_ h0 rfl (decodeStart_of_acknowledged hcodes hcode) rfl
  have r2 := r1.continue_ h1 rfl (decodeSlaw_of_acknowledged hcodes) rfl
  have r3 := r2.continue_ h2 rfl (if_pos rfl) rfl
  exact r3.continue_ h3 rfl (if_pos rfl) hq

/-- Settles O49: the shared part, the value byte and STOP. -/
theorem acknowledgedWriteSucceeds : Obligations.AcknowledgedWriteSucceeds := by
  intro s a0 a1 a2 a3 a4 rest hlegal hrst hph hw hop hscript h0 h1 h2 h3 h4
  have hq : nextPhase s.i2c.op .addrLo = some .wdata := by rw [hop]; rfl
  have hvalue := reaches_addressed ⟨hlegal, hrst, hw, hscript⟩ hph h0 h1 h2 h3 hq
  exact ((hvalue.written h4).stop rfl).run

/-- Settles O50: the shared part, the repeated START with the read address byte, the received byte and STOP. -/
theorem acknowledgedReadSucceeds : Obligations.AcknowledgedReadSucceeds := by
  intro s a0 a1 a2 a3 a4 a5 a6 rest k hlegal hrst hph hw hop hscript h0 h1 h2 h3 h4 h5 h6 hk
  have hq : nextPhase s.i2c.op .addrLo = some .rstart := by rw [hop]; rfl
  have hrestart := reaches_addressed ⟨hlegal, hrst, hw, hscript⟩ hph h0 h1 h2 h3 hq
  obtain ⟨code, h4, hcode⟩ := exists_code_of_acknowledged h4
  have hslar := hrestart.continue_ h4 rfl
    (decodeStart_of_acknowledged (codesLegal_of_configLegal hlegal) hcode) rfl
  have hreceive := hslar.continue_ h5 rfl (decodeSlar_of_acknowledged s.cfg.codes) rfl
  exact ((hreceive.received h6 hk).stop rfl).run

/-- Settles O51: five retries take the counter from 0 to 5, the sixth lost START exhausts. -/
theorem sixLostArbitrationsExhaust : Obligations.SixLostArbitrationsExhaust := by
  intro s a0 a1 a2 a3 a4 a5 rest hlegal hrst hstop hph hw hn hscript hlost
  simp only [List.forall_mem_cons] at hlost
  obtain ⟨h0, h1, h2, h3, h4, h5, _⟩ := hlost
  have r0 := reaches_self ⟨hlegal, hrst, hw, hscript⟩
  rw [← unit_of_phase_n hph hn] at r0
  have r1 := r0.lost h0 (by decide)
  have r2 := r1.lost h1 (by decide)
  have r3 := r2.lost h2 (by decide)
  have r4 := r3.lost h3 (by decide)
  have r5 := r4.lost h4 (by decide)
  exact (r5.exhausted h5 rfl hstop).run

end Sys2Proof.Machine
end

section
/-! Transmit and receive (spec/43_uart.md R196 to R201): the step that hands a byte over, the step that takes one, and a
whole buffer. -/

namespace Sys2Proof.Machine

/-- Settles O58: under the invariant the TXW step has a byte, and `sentUart` is what becomes of the unit. -/
theorem transmitStepSendsNextByte : Obligations.TransmitStepSendsNextByte := by
  intro s h hph hdre
  exact ⟨_, _, uartUnitStep_of_txw_ready hph hdre (txByte_of_inv h hph), fun hop => if_pos hop, fun hop => if_neg hop, rfl,
    rfl, sentUart_of_last, sentUart_of_not_last, rfl, sameI2cSide_refl s⟩

/-- Settles O59: the RXW step that sees `ua.rxc = 1`. -/
theorem receiveStepTakesByte : Obligations.ReceiveStepTakesByte := by
  intro s hph hrxc
  exact ⟨_, uartUnitStep_of_rxw_ready hph hrxc, rfl, rfl, rfl, rfl, sameI2cSide_refl s⟩

/-! ### A buffer transmit -/

/-- The port events of the first `n` bytes of the buffer that `s` transmits, in ascending address order. -/
def sentBytes (s : State) (n : Nat) : List UartEvent :=
  (List.range n).map fun j => .wrTdr (memGet s.mem (s.uart.bufp.toNat + j))

theorem sentBytes_succ (s : State) (n : Nat) :
    sentBytes s (n + 1) = sentBytes s n ++ [.wrTdr (memGet s.mem (s.uart.bufp.toNat + n))] := by
  simp [sentBytes, List.range_succ]

/-- `t` is a state of the buffer transmit that `s` begins: nothing disturbs it, and what was sent is the bytes before the
index. -/
structure BufferRun (s t : State) : Prop where
  legal : configLegal t.cfg = true
  noRst : t.env.rst = []
  i2cIdle : t.i2c.ph = .idle
  notWaiting : t.i2c.w = false
  mem : t.mem = s.mem
  bufp : t.uart.bufp = s.uart.bufp
  len : t.uart.len = s.uart.len
  trace : t.uartTrace = s.uartTrace ++ sentBytes s t.uart.idx.toNat

/-- The transmit is in progress: a byte inside the buffer space is left. -/
structure Transmitting (s t : State) : Prop where
  run : BufferRun s t
  phase : t.uart.ph = .txw
  opcode : t.uart.op = 2#2
  left : t.uart.idx.toNat < s.uart.len.toNat
  inside : s.uart.bufp.toNat + s.uart.len.toNat ≤ 65536

/-- The transmit is over: every byte was sent. -/
structure Transmitted (s t : State) : Prop where
  run : BufferRun s t
  phase : t.uart.ph = .idle
  all : t.uart.idx = s.uart.len
  done : t.uart.done = true

theorem BufferRun.tick {s t : State} (h : BufferRun s t) : BufferRun s t.tick :=
  ⟨by simpa using h.legal, tick_noRst t h.noRst, by simpa using h.i2cIdle, by simpa using h.notWaiting,
    by simpa using h.mem, by simpa using h.bufp, by simpa using h.len, by simpa using h.trace⟩

theorem Transmitting.tick {s t : State} (h : Transmitting s t) : Transmitting s t.tick :=
  ⟨h.run.tick, by simpa using h.phase, by simpa using h.opcode, by simpa using h.left, h.inside⟩

theorem Transmitted.tick {s t : State} (h : Transmitted s t) : Transmitted s t.tick :=
  ⟨h.run.tick, by simpa using h.phase, by simpa using h.all, by simpa using h.done⟩

section Send

variable {s t : State} (h : Transmitting s t)
include h

theorem Transmitting.step_eq : step t = uartUnitStep t.tick :=
  step_of_uart_busy h.run.legal (rstDue_of_noRst h.run.noRst) h.run.i2cIdle h.run.notWaiting (by simp [h.phase])

/-- The byte of the TXW step is the buffer's byte at the index (R196). -/
theorem Transmitting.txByte : t.txByte = some (memGet s.mem (s.uart.bufp.toNat + t.uart.idx.toNat)) := by
  have hleft := h.left
  have hinside := h.inside
  have haddr : s.uart.bufp.toNat + t.uart.idx.toNat < Config.bufferSize := by
    show _ < 65536
    omega
  simp [State.txByte, h.opcode, State.memRead, h.run.bufp, h.run.mem, haddr]

/-- The run goes on in a state whose unit has the index one higher and whose trace has the byte. -/
theorem Transmitting.run_of_sent {u : State} (hlegal : u.cfg = t.cfg) (henv : u.env = t.env) (hi2c : u.i2c = t.i2c)
    (hmem : u.mem = t.mem) (hbufp : u.uart.bufp = t.uart.bufp) (hlen : u.uart.len = t.uart.len)
    (hidx : u.uart.idx = t.uart.idx + 1#16)
    (htrace : u.uartTrace = t.uartTrace ++ [.wrTdr (memGet s.mem (s.uart.bufp.toNat + t.uart.idx.toNat))]) :
    BufferRun s u := by
  have hsucc : u.uart.idx.toNat = t.uart.idx.toNat + 1 := by
    rw [hidx]
    exact idx_succ_toNat (by rw [h.run.len]; exact h.left)
  refine ⟨hlegal ▸ h.run.legal, henv ▸ h.run.noRst, hi2c ▸ h.run.i2cIdle, hi2c ▸ h.run.notWaiting, hmem.trans h.run.mem,
    hbufp.trans h.run.bufp, hlen.trans h.run.len, ?_⟩
  rw [htrace, hsucc, sentBytes_succ, h.run.trace, List.append_assoc]

/-- A TXW step that sees `ua.dre = 1` ends the transmit with the last byte and goes on with any other (R196). -/
theorem Transmitting.send (hdre : t.ua.dre = true) : ∃ u, uartUnitStep t = .next u ∧ u.env = t.env ∧
    (t.uart.idx.toNat + 1 = s.uart.len.toNat → Transmitted s u) ∧
    (t.uart.idx.toNat + 1 ≠ s.uart.len.toNat → Transmitting s u ∧ u.uart.idx.toNat = t.uart.idx.toNat + 1) := by
  have hsucc : (t.uart.idx + 1#16).toNat = t.uart.idx.toNat + 1 := idx_succ_toNat (by rw [h.run.len]; exact h.left)
  have hleft := h.left
  refine ⟨_, uartUnitStep_of_txw_ready h.phase hdre h.txByte, rfl, fun hlast => ?_, fun hmore => ?_⟩
  · rw [sentUart_of_last (by rw [h.run.len]; exact hlast)]
    refine ⟨h.run_of_sent rfl rfl rfl rfl rfl rfl rfl rfl, rfl, BitVec.eq_of_toNat_eq ?_, rfl⟩
    exact hsucc.trans hlast
  · rw [sentUart_of_not_last (by rw [h.run.len]; exact hmore)]
    refine ⟨⟨h.run_of_sent rfl rfl rfl rfl rfl rfl rfl rfl, h.phase, h.opcode, ?_, h.inside⟩, hsucc⟩
    show (t.uart.idx + 1#16).toNat < _
    omega

end Send

/-- An accepted buffer transmit, nothing sent yet (R195). -/
theorem transmitting_self {s : State} (hlegal : configLegal s.cfg = true) (hrst : s.env.rst = [])
    (hidle : s.i2c.ph = .idle) (hw : s.i2c.w = false) (hph : s.uart.ph = .txw) (hop : s.uart.op = 2#2)
    (hidx : s.uart.idx = 0#16) (hlen : s.uart.len ≠ 0#16) (hinside : s.uart.bufp.toNat + s.uart.len.toNat ≤ 65536) :
    Transmitting s s := by
  have hpos : 0 < s.uart.len.toNat := Nat.pos_of_ne_zero fun h0 => hlen (BitVec.eq_of_toNat_eq h0)
  refine ⟨⟨hlegal, hrst, hidle, hw, rfl, rfl, rfl, ?_⟩, hph, hop, ?_, hinside⟩
  · simp [hidx, sentBytes]
  · simpa [hidx] using hpos

/-! #### Whatever the flags do -/

/-- A predicate that every step keeps holds after any number of steps. -/
theorem runFor_keeps {P : State → Prop} (hstep : ∀ t u, P t → step t = .next u → P u) (k : Nat) {s t : State} (hs : P s)
    (h : runFor k s = .next t) : P t := by
  induction k generalizing s with
  | zero =>
    cases h
    exact hs
  | succ k ih =>
    simp only [runFor] at h
    split at h
    · next u hu => exact ih (hstep s u hs hu) h
    · cases h
    · cases h

/-- The transmit in progress or over, with a host that presents nothing more. -/
def Progress (s t : State) : Prop :=
  (Transmitting s t ∨ Transmitted s t) ∧ t.env.host = [] ∧ t.env.primCalls = []

theorem step_of_nothing_to_do {s : State} (h : Ready s) (hprim : s.env.primCalls = []) (hhost : s.env.host = []) :
    step s = .next s.tick := by
  obtain ⟨hcfg, hrst, hph, hw, huart⟩ := h
  simp [step, State.move, hcfg, hrst, hph, hw, huart, hprim, hhost]

/-- Each step polls, sends a byte or, once all are sent, changes nothing of the transmit (R196). -/
theorem progress_step {s t u : State} (h : Progress s t) (hu : step t = .next u) : Progress s u := by
  obtain ⟨htransmit, hhost, hprim⟩ := h
  have hhost' : t.tick.env.host = [] := by rw [tick_host, hhost]
  have hprim' : t.tick.env.primCalls = [] := by rw [tick_primCalls, hprim]
  obtain hbusy | hover := htransmit
  · rw [hbusy.step_eq] at hu
    cases hdre : t.tick.ua.dre with
    | false =>
      obtain rfl := Host.Outcome.next.inj ((uartUnitStep_of_poll (.inl ⟨hbusy.tick.phase, hdre⟩)).symm.trans hu)
      exact ⟨.inl hbusy.tick, hhost', hprim'⟩
    | true =>
      obtain ⟨u', hu', henv, hlast, hmore⟩ := hbusy.tick.send hdre
      obtain rfl := Host.Outcome.next.inj (hu'.symm.trans hu)
      refine ⟨?_, henv ▸ hhost', henv ▸ hprim'⟩
      by_cases hidx : t.tick.uart.idx.toNat + 1 = s.uart.len.toNat
      · exact .inr (hlast hidx)
      · exact .inl (hmore hidx).1
  · have hready : Ready t :=
      ⟨hover.run.legal, rstDue_of_noRst hover.run.noRst, hover.run.i2cIdle, hover.run.notWaiting, hover.phase⟩
    obtain rfl := Host.Outcome.next.inj ((step_of_nothing_to_do hready hprim hhost).symm.trans hu)
    exact ⟨.inr hover.tick, hhost', hprim'⟩

/-! #### An engine that is ready at each poll -/

/-- With a ready sample for each of the `m` bytes left the transmit is over after `m` steps. -/
theorem Transmitting.completes {s : State} (m : Nat) {t : State} (h : Transmitting s t)
    (hm : t.uart.idx.toNat + m = s.uart.len.toNat) (henough : m ≤ t.env.uaScript.length)
    (hready : ∀ x ∈ t.env.uaScript.take m, x.dre = true) : ∃ u, runFor m t = .next u ∧ Transmitted s u := by
  induction m generalizing t with
  | zero =>
    have := h.left
    omega
  | succ m ih =>
    cases hscript : t.env.uaScript with
    | nil => simp [hscript] at henough
    | cons x rest =>
      rw [hscript, List.take_succ_cons, List.forall_mem_cons] at hready
      obtain ⟨hx, hrest⟩ := hready
      have hbusy : t.uart.ph ≠ .idle := by simp [h.phase]
      obtain ⟨hdre, _, _, hscript'⟩ := tick_sample t x rest hbusy hscript
      obtain ⟨u, hu, henv, hlast, hmore⟩ := h.tick.send (hdre.trans hx)
      rw [tick_uart] at hlast hmore
      have hrun := runFor_succ (h.step_eq.trans hu)
      by_cases hidx : t.uart.idx.toNat + 1 = s.uart.len.toNat
      · obtain rfl : m = 0 := by omega
        exact ⟨u, hrun 0, hlast hidx⟩
      · obtain ⟨hu', hidx'⟩ := hmore hidx
        have huScript : u.env.uaScript = rest := by rw [henv, hscript']
        have hlen : m ≤ rest.length := by simpa [hscript] using henough
        obtain ⟨v, hv, hover⟩ := ih hu' (by omega) (huScript ▸ hlen) (huScript ▸ hrest)
        exact ⟨v, (hrun m).trans hv, hover⟩

/-- Settles O60: every step keeps the run of the buffer, a TXW step that adds to the trace is one that sees `ua.dre = 1`,
and with ready samples each step sends a byte. -/
theorem bufferSentInOrder : Obligations.BufferSentInOrder := by
  refine ⟨fun s t k hlegal hrst hhost hprim hidle hw hph hop hidx hlen hinside hrun => ?_, fun s t h hph hne => ?_,
    fun s hlegal hrst hidle hw hph hop hidx hlen hinside henough hready => ?_⟩
  · have hstart := transmitting_self hlegal hrst hidle hw hph hop hidx hlen hinside
    obtain ⟨hbusy | hover, _, _⟩ :=
      runFor_keeps (fun _ _ => progress_step) k (P := Progress s) ⟨.inl hstart, hhost, hprim⟩ hrun
    · refine ⟨Nat.le_of_lt hbusy.left, .inl hbusy.phase, fun hidle => ?_, hbusy.run.trace⟩
      simp [hbusy.phase] at hidle
    · exact ⟨by rw [hover.all], .inr hover.phase, fun _ => ⟨hover.all, hover.done⟩, hover.run.trace⟩
  · obtain ⟨_, rfl⟩ | ⟨_, _, rfl⟩ | ⟨_, _, hdre, _⟩ | ⟨hrx, _⟩ | ⟨hrx, _⟩ := uartUnitStep_next h
    · exact absurd rfl hne
    · exact absurd rfl hne
    · exact hdre
    · simp [hph] at hrx
    · simp [hph] at hrx
  · have hstart := transmitting_self hlegal hrst hidle hw hph hop hidx hlen hinside
    obtain ⟨t, hrun, hover⟩ := hstart.completes s.uart.len.toNat (by simp [hidx]) henough hready
    refine ⟨t, hrun, hover.phase, hover.done, hover.all, ?_⟩
    rw [hover.run.trace, hover.all]
    rfl

end Sys2Proof.Machine
end
